-- ==== Sys2Proof/Word.lean ====
section
/-! DEFINITION. The word types of the 1-Wire core (00_scope.md R7, R9). Every value is unsigned. -/

namespace Sys2Proof

/-- A byte of a command, of a response or of the bus. -/
abbrev Byte := BitVec 8

/-- The CRC-16 running value and its seed (R7, R171). -/
abbrev Word16 := BitVec 16

/-- An address (ROM code) in the number form of 20_memory.md R52: bit index `i` is bit `i` of the number. -/
abbrev Rom := BitVec 64

/-- A discrepancy position, the 7-bit contents of LAST_DISC: 1 to 64, or 0 for none (10_state.md R25). -/
abbrev Disc := BitVec 7

end Sys2Proof
end

