-- ==== Sys2Proof/Config.lean ====
section
/-! DEFINITION. What the spec leaves to the implementation: the free bus answers and the range of MAX_PASSES. -/

namespace Sys2Proof.Config

/-- The answers of `reset()` and `readBit()` that nothing fixes (93_implementation_defined.md U1, U2, U3): the spec's
"any value". It has no body, so no proof can see a value of it. `State.freeNext` says which one comes next (log 6). -/
opaque freeBusAnswer : Nat → Bool

/-- MAX_PASSES, "a natural number 1 to 65535 the model takes as an argument" (00_scope.md R8, R227). -/
abbrev PassLimit := Subtype fun n : Nat => 1 ≤ n ∧ n ≤ 65535

/-- The value `State.reset` carries: the one 92_eei_decisions.md D12 suggests.
DESIGN CHOICE (unsafe, log 9): the spec fixes no value, so no statement rests on this one. -/
def suggestedMaxPasses : PassLimit := ⟨255, by decide⟩

end Sys2Proof.Config
end

