-- ==== Sys2Proof/Machine/State.lean ====
section
/-! DEFINITION. The state of the core and of its two ports as plain data (10_state.md R20 to R36), and the state after
reset (70_reset_and_hazards.md R341). -/

namespace Sys2Proof.Machine

/-- The faults of the core (60_exceptions.md R310). `step` answers one only from a FAULTED core that has no hardware reset
pending; the step that raises it answers a next state (log 3). -/
inductive Fault where
  /-- an illegal opcode byte (R311); raised by the decoder in `step`. Safe: the machine stops where the spec stops it. -/
  | illegalOpcode
  /-- BIT_WRITE with a reserved operand bit set (R312); raised by BIT_WRITE. Safe: the machine stops where the spec stops it. -/
  | reservedOperand
deriving DecidableEq, Repr

/-- Why a step can be refused. -/
inductive Refusal where
  /-- no meaning yet; raised by `exec`'s arm for an instruction not modelled (none is left). Safe. -/
  | notModelled (mnemonic : String)
deriving DecidableEq, Repr

/-- RUNSTATE (10_state.md R31). FAULTED carries the kind of the fault, which no command can read and which
"a model records ... as the fault outcome" (R310; log 3). -/
inductive RunState where
  /-- the core decodes and executes commands -/
  | run
  /-- the core has faulted and waits for a hardware reset -/
  | faulted (kind : Fault)
deriving DecidableEq, Repr

/-- One arrival from outside: a byte on the host command port (R20), or the platform asserting the hardware reset
(70_reset_and_hazards.md R340). -/
inductive PortInput where
  /-- a command byte -/
  | byte (b : Byte)
  /-- the hardware reset input is asserted -/
  | hwReset
deriving DecidableEq, Repr

/-- One BitChannel transaction with the bit it carried (10_state.md R21); 95_test_vectors.md writes them R, rN and wN. -/
inductive Transaction where
  /-- `reset()`, and the presenceFault bit it answered -/
  | reset (pf : Bool)
  /-- `readBit()`, and the bit it answered -/
  | read (b : Bool)
  /-- `writeBit(b)` -/
  | write (b : Bool)
deriving DecidableEq, Repr

/-- Where a bit index of a search stands on the bus (60_exceptions.md R330). -/
inductive SlotPhase where
  /-- the next slot reads the address bit -/
  | bit
  /-- the next slot reads the complement bit -/
  | comp
  /-- the next slot writes the chosen bit -/
  | write
deriving DecidableEq, Repr

/-- What the reference devices are doing (60_exceptions.md R330). -/
inductive DevicePhase where
  /-- AWAIT_COMMAND, with the command bits received so far, oldest first -/
  | awaitCommand (bits : List Bool)
  /-- SEARCH at bit index `i`, with the devices still participating -/
  | search (i : Nat) (slot : SlotPhase) (participating : List Rom)
  /-- OTHER: later answers are not modelled (any value) -/
  | other
deriving DecidableEq, Repr

/-- The bus environment (10_state.md R22): the oracle of R333, or one of the reference environments that are instances of it. -/
inductive Bus where
  /-- the answers to come, oldest first; after the last one every answer is free (R333) -/
  | oracle (answers : List Bool)
  /-- the reference device model: the population and its phase (R330) -/
  | devices (population : List Rom) (phase : DevicePhase)
  /-- the reference empty bus (R331) -/
  | empty
  /-- the reference loop-back mock: the bits written and not yet read, oldest first (R332) -/
  | loopback (queue : List Bool)
deriving DecidableEq, Repr

/-- The core's registers and decoder, its two ports, and the model's own fields. -/
structure State where
  /-- CRC8_ACC (R23) -/
  crc8Acc : Byte
  /-- CRC16_ACC (R24) -/
  crc16Acc : Word16
  /-- LAST_DISC (R25) -/
  lastDisc : Disc
  /-- LAST_ROM (R26) in the number form of R52 -/
  lastRom : Rom
  /-- LRV (R27) -/
  lrv : Bool
  /-- DONE (R28) -/
  done : Bool
  /-- PF (R29) -/
  pf : Bool
  /-- RUNSTATE (R31) -/
  runState : RunState
  /-- the bytes of a command not yet fully received, oldest first (R32) -/
  decoder : List Byte
  /-- what has arrived from outside and is not yet consumed, oldest first (R20, R340) -/
  hostIn : List PortInput
  /-- the response stream, oldest first (R10, R20) -/
  hostOut : List Byte
  /-- the bus environment (R21, R22) -/
  bus : Bus
  /-- the history of BitChannel transactions, oldest first (R61); no command reads it -/
  busLog : List Transaction
  /-- the model's own: which free bus answer comes next (log 6) -/
  freeNext : Nat
  /-- the model's own: the parameter MAX_PASSES (R8, R227); nothing writes it (log 9) -/
  maxPasses : Config.PassLimit
deriving DecidableEq, Repr

/-- The three outcomes of a step of this machine. -/
abbrev Result := Host.Outcome State Fault Refusal

/-- The state right after reset: every register at the value of R341 and nothing arrived, emitted or transacted yet.
`bus` (log 5), `freeNext` (log 6) and `maxPasses` (log 9) are the model's own fields and hold DESIGN CHOICES. -/
def State.reset : State where
  crc8Acc := 0x00#8
  crc16Acc := 0x0000#16
  lastDisc := 0#7
  lastRom := 0#64
  lrv := false
  done := false
  pf := false
  runState := .run
  decoder := []
  hostIn := []
  hostOut := []
  bus := .oracle []
  busLog := []
  freeNext := 0
  maxPasses := Config.suggestedMaxPasses

end Sys2Proof.Machine
end

