-- ==== Sys2Proof/Machine/Bus.lean ====
section
/-! DEFINITION. How the bus environment answers a transaction: 60_exceptions.md R330 to R333. `none` is an answer the spec
leaves open. -/

namespace Sys2Proof.Machine

/-- SEARCH-ROM, MATCH-ROM and SKIP-ROM, the bus-level command bytes (30_encoding.md R95). -/
def romSearchCommand : Byte := 0xF0#8

/-- MATCH-ROM (30_encoding.md R95). -/
def romMatchCommand : Byte := 0x55#8

/-- SKIP-ROM (30_encoding.md R95). -/
def romSkipCommand : Byte := 0xCC#8

/-- The wired AND of address bit `i` over the participating devices, 1 if there are none (R330, C3). -/
def wiredAnd (participating : List Rom) (i : Nat) : Bool := participating.all fun a => a.getLsbD i

/-- The wired AND of the inverted address bit, 1 if there are none (R330, C3). -/
def wiredAndComplement (participating : List Rom) (i : Nat) : Bool := participating.all fun a => !(a.getLsbD i)

/-- The phase after the write slot of bit index `i`: devices whose bit differs stop participating (R330).
After bit index 63 the spec says nothing of the devices (N14): DESIGN CHOICE (safe, log 8), any later answer is free. -/
def afterSearchWrite (i : Nat) (d : Bool) (participating : List Rom) : DevicePhase :=
  if i + 1 < 64 then .search (i + 1) .bit (participating.filter fun a => a.getLsbD i == d) else .other

/-- The phase after a command bit: eight of them are a command, and only 0xF0 starts a search (R330). -/
def afterCommandBit (population : List Rom) (bits : List Bool) (b : Bool) : DevicePhase :=
  let received := bits ++ [b]
  if received.length < 8 then .awaitCommand received
  else if received = [false, false, false, false, true, true, true, true] then .search 0 .bit population
  else .other

/-- `reset()`: its answer, if the environment fixes it, and the environment afterwards. -/
def busOnReset : Bus → Option Bool × Bus
  | .oracle [] => (none, .oracle [])
  | .oracle (a :: rest) => (some a, .oracle rest)
  | .devices population _ => (some population.isEmpty, .devices population (.awaitCommand []))
  | .empty => (some true, .empty)
  | .loopback _ => (some false, .loopback [])

/-- `readBit()` on the reference devices. A read out of protocol order is left open; DESIGN CHOICE (safe, log 8): so is
everything after it until the next reset. -/
def devicesOnRead : DevicePhase → Option Bool × DevicePhase
  | .search i .bit participating => (some (wiredAnd participating i), .search i .comp participating)
  | .search i .comp participating => (some (wiredAndComplement participating i), .search i .write participating)
  | .search _ .write _ => (none, .other)
  | .awaitCommand _ => (none, .other)
  | .other => (none, .other)

/-- `writeBit(d)` on the reference devices. A write out of protocol order leaves later answers open (log 8). -/
def devicesOnWrite (population : List Rom) (d : Bool) : DevicePhase → DevicePhase
  | .search i .write participating => afterSearchWrite i d participating
  | .search _ .bit _ => .other
  | .search _ .comp _ => .other
  | .awaitCommand bits => afterCommandBit population bits d
  | .other => .other

/-- `readBit()`: its answer, if the environment fixes it, and the environment afterwards. -/
def busOnRead : Bus → Option Bool × Bus
  | .oracle [] => (none, .oracle [])
  | .oracle (a :: rest) => (some a, .oracle rest)
  | .devices population phase => ((devicesOnRead phase).1, .devices population (devicesOnRead phase).2)
  | .empty => (some true, .empty)
  | .loopback [] => (some true, .loopback [])
  | .loopback (b :: rest) => (some b, .loopback rest)

/-- `writeBit(b)`: the environment afterwards. -/
def busOnWrite (b : Bool) : Bus → Bus
  | .oracle answers => .oracle answers
  | .devices population phase => .devices population (devicesOnWrite population b phase)
  | .empty => .empty
  | .loopback queue => .loopback (queue ++ [b])

end Sys2Proof.Machine
end

