-- ==== Sys2Proof/Machine/Operands.lean ====
section
/-! DEFINITION. Operand forms and bit and byte order: 30_encoding.md R73, R76, R78 and 20_memory.md R52 to R56. -/

namespace Sys2Proof.Machine

/-- `zext_8` of one bit (R9): the byte 0x00 or 0x01, which is also how a response carries a truth value (R76). -/
def bitByte (b : Bool) : Byte := if b then 0x01#8 else 0x00#8

/-- Operand bits b[7:1] of format OP_BIT, "reserved and must be 0" (R78). -/
def reservedBits (b : Byte) : BitVec 7 := b.extractLsb' 1 7

/-- Operand bit b[0] of format OP_BIT (R73). -/
def operandBit (b : Byte) : Bool := b.getLsbD 0

/-- A 16-bit operand from its two bytes, low byte first: `zext_16(lo) OR (zext_16(hi) << 8)` (R73). -/
def wordOfBytes (lo hi : Byte) : Word16 := lo.setWidth 16 ||| (hi.setWidth 16 <<< 8)

/-- `v[7:0]` of a 16-bit value. -/
def lowByte (v : Word16) : Byte := v.extractLsb' 0 8

/-- `v[15:8]` of a 16-bit value. -/
def highByte (v : Word16) : Byte := v.extractLsb' 8 8

/-- A 16-bit value in a stream, low byte first (20_memory.md R55, R56). -/
def wordBytes (v : Word16) : List Byte := [lowByte v, highByte v]

/-- A count in the SCAN response: `[V mod 256, V div 256]` (44_rom_search.md R226). -/
def countBytes (n : Nat) : List Byte := [BitVec.ofNat 8 (n % 256), BitVec.ofNat 8 (n / 256)]

/-- The eight bits of a byte in the order they travel on the bus, least significant first (20_memory.md R53). -/
def byteBits (v : Byte) : List Bool :=
  [v.getLsbD 0, v.getLsbD 1, v.getLsbD 2, v.getLsbD 3, v.getLsbD 4, v.getLsbD 5, v.getLsbD 6, v.getLsbD 7]

/-- Byte `k` of an address: bit index 8k + j is bit j of byte k (R52). -/
def romByte (a : Rom) (k : Nat) : Byte := a.extractLsb' (8 * k) 8

/-- The eight bytes of an address in order byte 0 to byte 7 (R52, R56). -/
def romBytes (a : Rom) : List Byte :=
  [romByte a 0, romByte a 1, romByte a 2, romByte a 3, romByte a 4, romByte a 5, romByte a 6, romByte a 7]

/-- The number form of an address: the sum of byte[k] · 2^(8k) (R52). -/
def romOfBytes : List Byte → Rom
  | [] => 0#64
  | b :: bs => b.setWidth 64 ||| (romOfBytes bs <<< 8)

/-- `ROM_ACC[i] <- d` (44_rom_search.md R211). -/
def setRomBit (a : Rom) (i : Nat) (d : Bool) : Rom :=
  if d then a ||| (1#64 <<< i) else a &&& ~~~(1#64 <<< i)

end Sys2Proof.Machine
end

