-- ==== Sys2Proof/Machine/Ops.lean ====
section
/-! DEFINITION. The operations the commands share: the pseudocode primitives of 00_scope.md R10, the ByteCodec primitives of
41_bytecodec.md R120, raising a fault (60_exceptions.md R310) and the hardware reset (70_reset_and_hazards.md R340). -/

namespace Sys2Proof.Machine

/-- `respond(bytes)`: append to the host response stream, in order (R10). -/
def respond (bytes : List Byte) (s : State) : State := { s with hostOut := s.hostOut ++ bytes }

/-! ## BitChannel transactions -/

/-- The bit a transaction answers: the environment's, or the free value whose turn it is. -/
def answerBit (a : Option Bool) (s : State) : Bool := a.getD (Config.freeBusAnswer s.freeNext)

/-- The free-value counter after a transaction: it moves on when a free value was used. -/
def freeAfter (a : Option Bool) (s : State) : Nat := if a.isSome then s.freeNext else s.freeNext + 1

/-- One transaction that answers a bit: the environment moves on and the history grows by that transaction. -/
def busAnswer (r : Option Bool × Bus) (t : Bool → Transaction) (s : State) : Bool × State :=
  (answerBit r.1 s,
    { s with bus := r.2, busLog := s.busLog ++ [t (answerBit r.1 s)], freeNext := freeAfter r.1 s })

/-- `BC.reset() -> pf` (R10). -/
def bcReset (s : State) : Bool × State := busAnswer (busOnReset s.bus) .reset s

/-- `BC.readBit() -> b` (R10). -/
def bcReadBit (s : State) : Bool × State := busAnswer (busOnRead s.bus) .read s

/-- `BC.writeBit(b)` (R10). -/
def bcWriteBit (b : Bool) (s : State) : State :=
  { s with bus := busOnWrite b s.bus, busLog := s.busLog ++ [.write b] }

/-! ## ByteCodec -/

/-- Write slots for a list of bits, first one first. -/
def writeBits : List Bool → State → State
  | [], s => s
  | b :: rest, s => writeBits rest (bcWriteBit b s)

/-- `WriteByteBits(v)`: eight write slots, v[0] first (R120). -/
def writeByteBits (v : Byte) (s : State) : State := writeBits (byteBits v) s

/-- `WriteByteBits` over a block, d[0] first (R127). -/
def writeBlockBits : List Byte → State → State
  | [], s => s
  | v :: rest, s => writeBlockBits rest (writeByteBits v s)

/-- The loop of `ReadByteBits`: `n` slots still to read, the next one giving bit `k` of the byte `v` read so far. -/
def readBitsFrom : Nat → Nat → Byte → State → Byte × State
  | 0, _, v, s => (v, s)
  | n + 1, k, v, s => readBitsFrom n (k + 1) (v ||| (bitByte (bcReadBit s).1 <<< k)) (bcReadBit s).2

/-- `ReadByteBits() -> v`: eight read slots, bit 0 first (R120). -/
def readByteBits (s : State) : Byte × State := readBitsFrom 8 0 0x00#8 s

/-- `ReadByteBits` `n` times, the first-read byte first (R125). -/
def readBlockBits : Nat → State → List Byte × State
  | 0, s => ([], s)
  | n + 1, s =>
    ((readByteBits s).1 :: (readBlockBits n (readByteBits s).2).1, (readBlockBits n (readByteBits s).2).2)

/-! ## Faults and the hardware reset -/

/-- `raise Fault(kind)`: "sets RUNSTATE <- FAULTED and does nothing else" (R310). -/
def raiseFault (kind : Fault) (s : State) : State := { s with runState := .faulted kind }

/-- The hardware reset (R340, R341): every register at its reset value, the decoder empty, RUNSTATE = RUN. It performs no
transaction and emits nothing, and what was emitted stays emitted. It is the only way out of FAULTED (R313). -/
def hardwareReset (s : State) : State :=
  { s with
    crc8Acc := 0x00#8, crc16Acc := 0x0000#16, lastDisc := 0#7, lastRom := 0#64, lrv := false, done := false,
    pf := false, runState := .run, decoder := [] }

end Sys2Proof.Machine
end

