-- ==== Sys2Proof/Machine/BitChannel.lean ====
section
/-! DEFINITION. BUS_RESET, BIT_READ, BIT_WRITE: the BitChannel pass-through commands of 40_bitchannel.md. -/

namespace Sys2Proof.Machine

/-- BUS_RESET (R100): the presence-fault bit goes to PF and to the host, and the core does not act on it. -/
def execBusReset (s : State) : Result :=
  .next (respond [bitByte (bcReset s).1] { (bcReset s).2 with pf := (bcReset s).1 })

/-- BIT_READ (R102). -/
def execBitRead (s : State) : Result := .next (respond [bitByte (bcReadBit s).1] (bcReadBit s).2)

/-- BIT_WRITE (R104): a reserved operand bit raises ReservedOperand before any transaction (R78, R305, R312). -/
def execBitWrite (b : Byte) (s : State) : Result :=
  .next (if reservedBits b = 0#7 then bcWriteBit (operandBit b) s else raiseFault .reservedOperand s)

end Sys2Proof.Machine
end

