-- ==== Sys2Proof/Machine/ByteCodec.lean ====
section
/-! DEFINITION. BYTE_READ, BYTE_WRITE, BLOCK_READ, BLOCK_WRITE: the ByteCodec commands of 41_bytecodec.md. -/

namespace Sys2Proof.Machine

/-- BYTE_READ (R121). -/
def execByteRead (s : State) : Result := .next (respond [(readByteBits s).1] (readByteBits s).2)

/-- BYTE_WRITE (R123). -/
def execByteWrite (v : Byte) (s : State) : Result := .next (writeByteBits v s)

/-- BLOCK_READ (R125). -/
def execBlockRead (n : Nat) (s : State) : Result := .next (respond (readBlockBits n s).1 (readBlockBits n s).2)

/-- BLOCK_WRITE (R127). -/
def execBlockWrite (d : List Byte) (s : State) : Result := .next (writeBlockBits d s)

end Sys2Proof.Machine
end

