-- ==== Sys2Proof/Machine/Checksum.lean ====
section
/-! DEFINITION. The ChecksumEngine's pure functions: crc8 (42_crc8.md R140, R141) and crc16 (43_crc16.md R170 to R173, R182,
R184). -/

namespace Sys2Proof.Machine

/-- CRC8_INIT (R140). -/
def crc8Init : Byte := 0x00#8

/-- One iteration of the per-byte step: the low bit is tested before the shift (R141). -/
def crc8Iteration (c : Byte) : Byte := if c.getLsbD 0 then (c >>> 1) ^^^ 0x8C#8 else c >>> 1

/-- `n` iterations (R141). -/
def crc8Iterations : Nat → Byte → Byte
  | 0, c => c
  | n + 1, c => crc8Iterations n (crc8Iteration c)

/-- `Crc8Byte(acc, b)` (R141). -/
def crc8Byte (acc b : Byte) : Byte := crc8Iterations 8 (acc ^^^ b)

/-- The fold of `Crc8Byte` over a block, first byte first, from an accumulator (R140, R147). -/
def crc8From : Byte → List Byte → Byte
  | acc, [] => acc
  | acc, b :: rest => crc8From (crc8Byte acc b) rest

/-- `crc8(data)` (R140). -/
def crc8 (data : List Byte) : Byte := crc8From crc8Init data

/-- The address test: `crc8` over all the bytes is 0 (R144, R157, 44_rom_search.md R214). -/
def addressValid (a : List Byte) : Bool := crc8 a == 0x00#8

/-- ODDPARITY, the "fixed 16-entry parity table" (R173). -/
def oddParityTable : List Bool :=
  [false, true, true, false, true, false, false, true, true, false, false, true, false, true, true, false]

/-- ODDPARITY of a nibble (R173). -/
def oddParity (x : BitVec 4) : Bool := oddParityTable.getD x.toNat false

/-- Injection 1: 0xC001 when the parities of the two nibbles of the XORed byte differ (R172). -/
def parityInjection (c : Byte) : Word16 :=
  if oddParity (c.extractLsb' 0 4) != oddParity (c.extractLsb' 4 4) then 0xC001#16 else 0x0000#16

/-- The three injections of the XORed byte `c` into the shifted value (R172). -/
def crc16Inject (crc : Word16) (c : Byte) : Word16 :=
  (crc >>> 8) ^^^ parityInjection c ^^^ (c.setWidth 16 <<< 6) ^^^ (c.setWidth 16 <<< 7)

/-- `Crc16Byte(crc, b)`: the byte of the injections is `b XOR crc[7:0]` (R172, C7). -/
def crc16Byte (crc : Word16) (b : Byte) : Word16 := crc16Inject crc (b ^^^ lowByte crc)

/-- `crc16(data, seed)`: the fold of `Crc16Byte`, raw and uninverted (R170). -/
def crc16 : List Byte → Word16 → Word16
  | [], seed => seed
  | b :: rest, seed => crc16 rest (crc16Byte seed b)

/-- The append-mode bytes of a final value: inverted, low byte first (R182, R183). -/
def appendBytes (crc : Word16) : List Byte := wordBytes (crc ^^^ 0xFFFF#16)

/-- The check-mode constant (R184). -/
def checkConstant : Word16 := 0xB001#16

/-- The check-mode test of a raw value (R184, R185). -/
def blockValid (crc : Word16) : Bool := crc == checkConstant

end Sys2Proof.Machine
end

