-- ==== Sys2Proof/Machine/Crc16.lean ====
section
/-! DEFINITION. The CRC-16 commands of 43_crc16.md. -/

namespace Sys2Proof.Machine

/-- CRC16_SEED (R176). -/
def execCrc16Seed (seed : Word16) (s : State) : Result := .next { s with crc16Acc := seed }

/-- CRC16_UPDATE (R177). -/
def execCrc16Update (v : Byte) (s : State) : Result := .next { s with crc16Acc := crc16Byte s.crc16Acc v }

/-- CRC16_BLOCK (R178): it continues from the current value. -/
def execCrc16Block (d : List Byte) (s : State) : Result := .next { s with crc16Acc := crc16 d s.crc16Acc }

/-- CRC16_READ (R179): the raw value, low byte first. -/
def execCrc16Read (s : State) : Result := .next (respond (wordBytes s.crc16Acc) s)

/-- CRC16_APPEND (R183): the inverted value, low byte first; CRC16_ACC does not change. -/
def execCrc16Append (s : State) : Result := .next (respond (appendBytes s.crc16Acc) s)

/-- CRC16_CHECK (R185): the raw value against 0xB001; CRC16_ACC does not change. -/
def execCrc16Check (s : State) : Result := .next (respond [bitByte (blockValid s.crc16Acc)] s)

end Sys2Proof.Machine
end

