-- ==== Sys2Proof/Machine/Crc8.lean ====
section
/-! DEFINITION. The CRC-8 commands of 42_crc8.md. ADDR_COMPLETE and ADDR_CHECK neither read nor write CRC8_ACC (10_state.md R23). -/

namespace Sys2Proof.Machine

/-- CRC8_CLEAR (R145). -/
def execCrc8Clear (s : State) : Result := .next { s with crc8Acc := crc8Init }

/-- CRC8_UPDATE (R146). -/
def execCrc8Update (v : Byte) (s : State) : Result := .next { s with crc8Acc := crc8Byte s.crc8Acc v }

/-- CRC8_BLOCK (R147): it continues from the current value. -/
def execCrc8Block (d : List Byte) (s : State) : Result := .next { s with crc8Acc := crc8From s.crc8Acc d }

/-- CRC8_READ (R148). -/
def execCrc8Read (s : State) : Result := .next (respond [s.crc8Acc] s)

/-- ADDR_COMPLETE (R155). -/
def execAddrComplete (a : List Byte) (s : State) : Result := .next (respond (a ++ [crc8 a]) s)

/-- ADDR_CHECK (R157). -/
def execAddrCheck (a : List Byte) (s : State) : Result := .next (respond [bitByte (addressValid a)] s)

end Sys2Proof.Machine
end

