-- ==== Sys2Proof/Machine/Flags.lean ====
section
/-! DEFINITION. The flags: the STATUS byte, DONE after a pass, and the status codes. -/

namespace Sys2Proof.Machine

/-- The STATUS byte: bit 0 = PF, bit 1 = DONE, bit 2 = LRV, bits 7:3 = 0 (10_state.md R30, 45_system.md R250). -/
def statusByte (s : State) : Byte := bitByte s.pf ||| (bitByte s.done <<< 1) ||| (bitByte s.lrv <<< 2)

/-- DONE after a completed pass: 1 if NEXT_DISC = 0, else 0 (44_rom_search.md R215). -/
def doneFlag (nextDisc : Disc) : Bool := nextDisc == 0#7

/-- The outcomes a search command reports (60_exceptions.md R300). -/
inductive Status where
  /-- pass completed with a CRC-valid address, or scan completed -/
  | ok
  /-- the pass's reset reported no presence (R301) -/
  | busFault
  /-- a pass read (1,1) (R302) -/
  | searchAbort
  /-- pass completed, the address fails CRC-8 (R303) -/
  | checksumMismatch
  /-- MAX_PASSES passes without completion (44_rom_search.md R227) -/
  | passLimit
deriving DecidableEq, Repr

/-- The status codes (60_exceptions.md R300). -/
def statusCode : Status → Byte
  | .ok => 0x00#8
  | .busFault => 0x01#8
  | .searchAbort => 0x02#8
  | .checksumMismatch => 0x03#8
  | .passLimit => 0x04#8

end Sys2Proof.Machine
end

