-- ==== Sys2Proof/Machine/Search.lean ====
section
/-! DEFINITION. The ROM Search Engine: one pass (44_rom_search.md R203 to R215) and the loop of a scan (R225 to R227). The hidden
values of 10_state.md R33 and R34 are the arguments of the recursive procedures. -/

namespace Sys2Proof.Machine

/-- The branch taken at a collision at position `p` (R209): below LAST_DISC the previous branch, at it 0, beyond it 1. -/
def collisionBranch (p : Nat) (lastDisc : Disc) (previous : Bool) : Bool :=
  if p < lastDisc.toNat then previous else if p = lastDisc.toNat then false else true

/-- The chosen bit for the pair `(b0, b1)` and the new NEXT_DISC, or `none` for `(1,1)` (R207, R208, R209). -/
def chooseBit (b0 b1 : Bool) (p : Nat) (lastDisc : Disc) (previous : Bool) (nextDisc : Disc) : Option (Bool × Disc) :=
  match b0, b1 with
  | true, true => none
  | false, true => some (false, nextDisc)
  | true, false => some (true, nextDisc)
  | false, false =>
    if collisionBranch p lastDisc previous then some (true, BitVec.ofNat 7 p) else some (false, nextDisc)

/-- The loop of a pass: `n` bit indices left, the next one `i`, with ROM_ACC and NEXT_DISC so far. It answers the final
ROM_ACC and NEXT_DISC, or `none` when a bit read `(1,1)`; LAST_DISC and LAST_ROM do not change meanwhile (R203, R206 to R211). -/
def searchBits : Nat → Nat → Rom → Disc → State → Option (Rom × Disc) × State
  | 0, _, romAcc, nextDisc, s => (some (romAcc, nextDisc), s)
  | n + 1, i, romAcc, nextDisc, s =>
    let r0 := bcReadBit s
    let r1 := bcReadBit r0.2
    match chooseBit r0.1 r1.1 (i + 1) s.lastDisc (s.lastRom.getLsbD i) nextDisc with
    | none => (none, r1.2)
    | some (d, nextDisc') => searchBits n (i + 1) (setRomBit romAcc i d) nextDisc' (bcWriteBit d r1.2)

/-- The state update of a failed pass: LAST_DISC <- 0 and DONE <- 1, LAST_ROM and LRV unchanged (R212, R213). -/
def failPass (s : State) : State := { s with lastDisc := 0#7, done := true }

/-- The state update of a completed pass (R215). -/
def completePass (rom : Rom) (nextDisc : Disc) (s : State) : State :=
  { s with lastRom := rom, lrv := true, lastDisc := nextDisc, done := doneFlag nextDisc }

/-- What a pass answers (R203). -/
structure PassResult where
  /-- the status code's name -/
  status : Status
  /-- the address, 0 when the pass failed -/
  rom : Rom
  /-- the state after the pass -/
  state : State
deriving DecidableEq, Repr

/-- The status of a completed pass: its address passes or fails CRC-8 (R214). -/
def romStatus (rom : Rom) : Status := if addressValid (romBytes rom) then .ok else .checksumMismatch

/-- The end of a pass, from what its 64 bits gave (R213 to R215). -/
def finishPass (r : Option (Rom × Disc) × State) : PassResult :=
  match r.1 with
  | none => ⟨.searchAbort, 0#64, failPass r.2⟩
  | some (rom, nextDisc) => ⟨romStatus rom, rom, completePass rom nextDisc r.2⟩

/-- The reset of a pass, with its answer in PF (R204). -/
def passReset (s : State) : State := { (bcReset s).2 with pf := (bcReset s).1 }

/-- `Pass()` (R203): reset, SEARCH-ROM, then 64 bits. -/
def runPass (s : State) : PassResult :=
  if (bcReset s).1 then ⟨.busFault, 0#64, failPass (passReset s)⟩
  else finishPass (searchBits 64 0 0#64 0#7 (writeByteBits romSearchCommand (passReset s)))

/-- A fresh SearchState (R220, and the start of a scan in R225). -/
def clearSearch (s : State) : State := { s with lastDisc := 0#7, lastRom := 0#64, lrv := false, done := false }

/-- What a scan has found (10_state.md R34) and where it ended. -/
structure ScanResult where
  /-- the overall status -/
  status : Status
  /-- CRC-valid addresses in the order found -/
  valid : List Rom
  /-- CRC-invalid addresses in the order found -/
  rejected : List Rom
  /-- the state after the last pass -/
  state : State
deriving DecidableEq, Repr

/-- The loop of a scan with `n` passes left before MAX_PASSES (R225, R227). -/
def scanLoop : Nat → List Rom → List Rom → State → ScanResult
  | 0, valid, rejected, s => ⟨.passLimit, valid, rejected, s⟩
  | n + 1, valid, rejected, s =>
    let r := runPass s
    match r.status with
    | .ok =>
      if r.state.lastDisc = 0#7 then ⟨.ok, valid ++ [r.rom], rejected, r.state⟩
      else scanLoop n (valid ++ [r.rom]) rejected r.state
    | .checksumMismatch =>
      if r.state.lastDisc = 0#7 then ⟨.ok, valid, rejected ++ [r.rom], r.state⟩
      else scanLoop n valid (rejected ++ [r.rom]) r.state
    | .busFault => ⟨.busFault, valid, rejected, r.state⟩
    | .searchAbort => ⟨.searchAbort, valid, rejected, r.state⟩
    | .passLimit => ⟨.passLimit, valid, rejected, r.state⟩

/-- A scan from a fresh SearchState, at most MAX_PASSES passes (R225). -/
def scanBus (s : State) : ScanResult := scanLoop s.maxPasses.val [] [] (clearSearch s)

/-- The SEARCH_PASS response: status, the eight address bytes, LAST_DISC after the pass (R216). -/
def passResponse (r : PassResult) : List Byte :=
  statusCode r.status :: romBytes r.rom ++ [r.state.lastDisc.setWidth 8]

/-- Addresses in a response, one after the other (R226). -/
def romListBytes : List Rom → List Byte
  | [] => []
  | a :: rest => romBytes a ++ romListBytes rest

/-- The SCAN response (R226). -/
def scanResponse (status : Status) (valid rejected : List Rom) : List Byte :=
  [statusCode status] ++ countBytes valid.length ++ romListBytes valid ++ countBytes rejected.length ++
    romListBytes rejected

/-- The SEARCH_READ response: LAST_DISC, then LAST_ROM (R221). -/
def searchStateBytes (s : State) : List Byte := s.lastDisc.setWidth 8 :: romBytes s.lastRom

end Sys2Proof.Machine
end

