-- ==== Sys2Proof/Machine/RomSearch.lean ====
section
/-! DEFINITION. The search commands of 44_rom_search.md. -/

namespace Sys2Proof.Machine

/-- SEARCH_INIT (R220): PF is unchanged. -/
def execSearchInit (s : State) : Result := .next (clearSearch s)

/-- SEARCH_PASS (R216). -/
def execSearchPass (s : State) : Result := .next (respond (passResponse (runPass s)) (runPass s).state)

/-- SCAN (R225). -/
def execScan (s : State) : Result :=
  .next (respond (scanResponse (scanBus s).status (scanBus s).valid (scanBus s).rejected) (scanBus s).state)

/-- SEARCH_READ (R221). -/
def execSearchRead (s : State) : Result := .next (respond (searchStateBytes s) s)

end Sys2Proof.Machine
end

