-- ==== Sys2Proof/Machine/System.lean ====
section
/-! DEFINITION. STATUS_READ, the system command of 45_system.md. -/

namespace Sys2Proof.Machine

/-- STATUS_READ (R250): reading does not clear PF, DONE or LRV. -/
def execStatusRead (s : State) : Result := .next (respond [statusByte s] s)

end Sys2Proof.Machine
end

