-- ==== Sys2Proof/Syntax.lean ====
section
/-! DEFINITION. The 24 commands of the opcode map (30_encoding.md R75) and what a decoder answers. -/

namespace Sys2Proof

/-- A command with its operands in the forms of 30_encoding.md R73, one constructor per row of the opcode map.
A count is a number, a block or an address a list of bytes in order; `WellFormed` bounds them. -/
inductive Instr where
  /-- 0x01 BUS_RESET (R100) -/
  | busReset
  /-- 0x02 BIT_READ (R102) -/
  | bitRead
  /-- 0x03 BIT_WRITE (R104): the whole operand byte, reserved bits included, because the command itself checks them -/
  | bitWrite (b : Byte)
  /-- 0x10 BYTE_READ (R121) -/
  | byteRead
  /-- 0x11 BYTE_WRITE (R123) -/
  | byteWrite (v : Byte)
  /-- 0x12 BLOCK_READ (R125) -/
  | blockRead (n : Nat)
  /-- 0x13 BLOCK_WRITE (R127) -/
  | blockWrite (d : List Byte)
  /-- 0x20 CRC8_CLEAR (R145) -/
  | crc8Clear
  /-- 0x21 CRC8_UPDATE (R146) -/
  | crc8Update (v : Byte)
  /-- 0x22 CRC8_BLOCK (R147) -/
  | crc8Block (d : List Byte)
  /-- 0x23 CRC8_READ (R148) -/
  | crc8Read
  /-- 0x24 ADDR_COMPLETE (R155) -/
  | addrComplete (a : List Byte)
  /-- 0x25 ADDR_CHECK (R157) -/
  | addrCheck (a : List Byte)
  /-- 0x30 CRC16_SEED (R176) -/
  | crc16Seed (seed : Word16)
  /-- 0x31 CRC16_UPDATE (R177) -/
  | crc16Update (v : Byte)
  /-- 0x32 CRC16_BLOCK (R178) -/
  | crc16Block (d : List Byte)
  /-- 0x33 CRC16_READ (R179) -/
  | crc16Read
  /-- 0x34 CRC16_APPEND (R183) -/
  | crc16Append
  /-- 0x35 CRC16_CHECK (R185) -/
  | crc16Check
  /-- 0x40 SEARCH_INIT (R220) -/
  | searchInit
  /-- 0x41 SEARCH_PASS (R216) -/
  | searchPass
  /-- 0x42 SCAN (R225) -/
  | scan
  /-- 0x43 SEARCH_READ (R221) -/
  | searchRead
  /-- 0x50 STATUS_READ (R250) -/
  | statusRead
deriving DecidableEq, Repr

/-- What the decoder makes of the bytes received so far (R72, R77). -/
inductive Decoded where
  /-- a whole command, and the bytes after it -/
  | command (i : Instr) (rest : List Byte)
  /-- the opcode byte is one of the 232 illegal ones (R77); only that byte is consumed -/
  | illegalOpcode (rest : List Byte)
  /-- bytes of the command are still missing (R72) -/
  | incomplete
deriving DecidableEq, Repr

/-- The pseudo-instructions of 30_encoding.md R81, each a name for a sequence of commands. -/
inductive Pseudo where
  /-- SELECT [a0..a7]: address one device -/
  | select (a : List Byte)
  /-- SKIP: address all devices -/
  | skip
  /-- CRC8 [d..] -/
  | crc8 (d : List Byte)
  /-- CRC16 [d..], seed -/
  | crc16 (d : List Byte) (seed : Word16)
  /-- CRC16_SEAL [d..] -/
  | crc16Seal (d : List Byte)
  /-- CRC16_VERIFY [d..] -/
  | crc16Verify (d : List Byte)
deriving DecidableEq, Repr

end Sys2Proof
end

