-- ==== Sys2Proof/Machine/Dispatch.lean ====
section
/-! DEFINITION. One arm per command: the meaning of each (30_encoding.md R75). -/

namespace Sys2Proof.Machine

def exec (i : Instr) (s : State) : Host.Outcome State Fault Refusal :=
  match i with
  -- BitChannel
  | .busReset => Sys2Proof.Machine.execBusReset s
  | .bitRead => Sys2Proof.Machine.execBitRead s
  | .bitWrite b => Sys2Proof.Machine.execBitWrite b s
  -- ByteCodec
  | .byteRead => Sys2Proof.Machine.execByteRead s
  | .byteWrite v => Sys2Proof.Machine.execByteWrite v s
  | .blockRead n => Sys2Proof.Machine.execBlockRead n s
  | .blockWrite d => Sys2Proof.Machine.execBlockWrite d s
  -- CRC-8
  | .crc8Clear => Sys2Proof.Machine.execCrc8Clear s
  | .crc8Update v => Sys2Proof.Machine.execCrc8Update v s
  | .crc8Block d => Sys2Proof.Machine.execCrc8Block d s
  | .crc8Read => Sys2Proof.Machine.execCrc8Read s
  | .addrComplete a => Sys2Proof.Machine.execAddrComplete a s
  | .addrCheck a => Sys2Proof.Machine.execAddrCheck a s
  -- CRC-16
  | .crc16Seed seed => Sys2Proof.Machine.execCrc16Seed seed s
  | .crc16Update v => Sys2Proof.Machine.execCrc16Update v s
  | .crc16Block d => Sys2Proof.Machine.execCrc16Block d s
  | .crc16Read => Sys2Proof.Machine.execCrc16Read s
  | .crc16Append => Sys2Proof.Machine.execCrc16Append s
  | .crc16Check => Sys2Proof.Machine.execCrc16Check s
  -- ROM search
  | .searchInit => Sys2Proof.Machine.execSearchInit s
  | .searchPass => Sys2Proof.Machine.execSearchPass s
  | .scan => Sys2Proof.Machine.execScan s
  | .searchRead => Sys2Proof.Machine.execSearchRead s
  -- System
  | .statusRead => Sys2Proof.Machine.execStatusRead s

end Sys2Proof.Machine
end

