-- ==== Sys2Proof/WellFormed.lean ====
section
/-! DEFINITION. Which commands are well formed: the operands fit their format (30_encoding.md R71, R78) and so an
assembler accepts them ("An assembler refuses a list whose length does not fit the format, and a number out of range
for its field", R80). -/

namespace Sys2Proof

open Machine

/-- The operands fit the fields of the command's format (R71, R73), whatever the reserved bits hold. -/
def Instr.fitsFormat : Instr → Bool
  | .busReset => true
  | .bitRead => true
  | .bitWrite _ => true
  | .byteRead => true
  | .byteWrite _ => true
  | .blockRead n => decide (n ≤ 255)
  | .blockWrite d => decide (d.length ≤ 255)
  | .crc8Clear => true
  | .crc8Update _ => true
  | .crc8Block d => decide (d.length ≤ 255)
  | .crc8Read => true
  | .addrComplete a => decide (a.length = 7)
  | .addrCheck a => decide (a.length = 8)
  | .crc16Seed _ => true
  | .crc16Update _ => true
  | .crc16Block d => decide (d.length ≤ 255)
  | .crc16Read => true
  | .crc16Append => true
  | .crc16Check => true
  | .searchInit => true
  | .searchPass => true
  | .scan => true
  | .searchRead => true
  | .statusRead => true

/-- The reserved operand bits, which only BIT_WRITE has, are zero (R78: "No other operand has reserved values"). -/
def Instr.reservedZero : Instr → Bool
  | .bitWrite b => reservedBits b == 0#7
  | .busReset | .bitRead | .byteRead | .byteWrite _ | .blockRead _ | .blockWrite _ => true
  | .crc8Clear | .crc8Update _ | .crc8Block _ | .crc8Read | .addrComplete _ | .addrCheck _ => true
  | .crc16Seed _ | .crc16Update _ | .crc16Block _ | .crc16Read | .crc16Append | .crc16Check => true
  | .searchInit | .searchPass | .scan | .searchRead | .statusRead => true

/-- A well-formed command: every operand fits its field and the reserved bits are zero. -/
abbrev Instr.WellFormed (i : Instr) : Prop := i.fitsFormat = true ∧ i.reservedZero = true

end Sys2Proof
end

