-- ==== Sys2Proof/Decode.lean ====
section
/-! DEFINITION. The decoder, total on any bytes, and after it the encoder: 30_encoding.md R70 to R79. -/

namespace Sys2Proof

open Machine

/-- Format OP: no operand bytes (R71). -/
def decodeOp (i : Instr) (bs : List Byte) : Decoded := .command i bs

/-- Formats OP_BIT and OP_IMM8: one operand byte (R71). -/
def decodeImm8 (f : Byte → Instr) : List Byte → Decoded
  | v :: rest => .command (f v) rest
  | [] => .incomplete

/-- Format OP_N: one count byte (R71). -/
def decodeCount (f : Nat → Instr) : List Byte → Decoded
  | n :: rest => .command (f n.toNat) rest
  | [] => .incomplete

/-- A fixed number `k` of bytes taken in order (formats OP_ADDR7 and OP_ADDR8, and the data of OP_N_DATA). -/
def decodeBytes (k : Nat) (f : List Byte → Instr) (bs : List Byte) : Decoded :=
  if k ≤ bs.length then .command (f (bs.take k)) (bs.drop k) else .incomplete

/-- Format OP_N_DATA: a count byte n, then n data bytes (R71, R72). -/
def decodeNData (f : List Byte → Instr) : List Byte → Decoded
  | n :: bs => decodeBytes n.toNat f bs
  | [] => .incomplete

/-- Format OP_SEED16: low byte, then high byte (R71). -/
def decodeSeed16 (f : Word16 → Instr) : List Byte → Decoded
  | lo :: hi :: rest => .command (f (wordOfBytes lo hi)) rest
  | [_] => .incomplete
  | [] => .incomplete

/-- The opcode map (R75): the whole opcode byte is matched, and every byte not in it is illegal (R77). -/
def decodeOpcode (op : Byte) (bs : List Byte) : Decoded :=
  match op with
  | 0x01#8 => decodeOp .busReset bs
  | 0x02#8 => decodeOp .bitRead bs
  | 0x03#8 => decodeImm8 .bitWrite bs
  | 0x10#8 => decodeOp .byteRead bs
  | 0x11#8 => decodeImm8 .byteWrite bs
  | 0x12#8 => decodeCount .blockRead bs
  | 0x13#8 => decodeNData .blockWrite bs
  | 0x20#8 => decodeOp .crc8Clear bs
  | 0x21#8 => decodeImm8 .crc8Update bs
  | 0x22#8 => decodeNData .crc8Block bs
  | 0x23#8 => decodeOp .crc8Read bs
  | 0x24#8 => decodeBytes 7 .addrComplete bs
  | 0x25#8 => decodeBytes 8 .addrCheck bs
  | 0x30#8 => decodeSeed16 .crc16Seed bs
  | 0x31#8 => decodeImm8 .crc16Update bs
  | 0x32#8 => decodeNData .crc16Block bs
  | 0x33#8 => decodeOp .crc16Read bs
  | 0x34#8 => decodeOp .crc16Append bs
  | 0x35#8 => decodeOp .crc16Check bs
  | 0x40#8 => decodeOp .searchInit bs
  | 0x41#8 => decodeOp .searchPass bs
  | 0x42#8 => decodeOp .scan bs
  | 0x43#8 => decodeOp .searchRead bs
  | 0x50#8 => decodeOp .statusRead bs
  | _ => .illegalOpcode bs

/-- The decoder: it reads the opcode byte and then what its format needs. Decoding depends on no register (R79). -/
def decode : List Byte → Decoded
  | [] => .incomplete
  | op :: bs => decodeOpcode op bs

/-! ## The encoder, from the same tables -/

/-- Byte 0 of a command (R75). -/
def Instr.opcode : Instr → Byte
  | .busReset => 0x01#8
  | .bitRead => 0x02#8
  | .bitWrite _ => 0x03#8
  | .byteRead => 0x10#8
  | .byteWrite _ => 0x11#8
  | .blockRead _ => 0x12#8
  | .blockWrite _ => 0x13#8
  | .crc8Clear => 0x20#8
  | .crc8Update _ => 0x21#8
  | .crc8Block _ => 0x22#8
  | .crc8Read => 0x23#8
  | .addrComplete _ => 0x24#8
  | .addrCheck _ => 0x25#8
  | .crc16Seed _ => 0x30#8
  | .crc16Update _ => 0x31#8
  | .crc16Block _ => 0x32#8
  | .crc16Read => 0x33#8
  | .crc16Append => 0x34#8
  | .crc16Check => 0x35#8
  | .searchInit => 0x40#8
  | .searchPass => 0x41#8
  | .scan => 0x42#8
  | .searchRead => 0x43#8
  | .statusRead => 0x50#8

/-- The operand bytes of format OP_N_DATA: the count, then the data (R71). -/
def nDataBytes (d : List Byte) : List Byte := BitVec.ofNat 8 d.length :: d

/-- The operand bytes, in the layout the command's format fixes (R71). -/
def Instr.operandBytes : Instr → List Byte
  | .busReset => []
  | .bitRead => []
  | .bitWrite b => [b]
  | .byteRead => []
  | .byteWrite v => [v]
  | .blockRead n => [BitVec.ofNat 8 n]
  | .blockWrite d => nDataBytes d
  | .crc8Clear => []
  | .crc8Update v => [v]
  | .crc8Block d => nDataBytes d
  | .crc8Read => []
  | .addrComplete a => a
  | .addrCheck a => a
  | .crc16Seed seed => wordBytes seed
  | .crc16Update v => [v]
  | .crc16Block d => nDataBytes d
  | .crc16Read => []
  | .crc16Append => []
  | .crc16Check => []
  | .searchInit => []
  | .searchPass => []
  | .scan => []
  | .searchRead => []
  | .statusRead => []

/-- The bytes of a command on the host port: the opcode byte, then the operand bytes (R70). -/
def encode (i : Instr) : List Byte := i.opcode :: i.operandBytes

/-! ## Table words -/

/-- The bytes of a table word, byte 0 in its least significant bits. -/
def tableBytes : Nat → Nat → List Byte
  | 0, _ => []
  | k + 1, w => BitVec.ofNat 8 w :: tableBytes k (w / 256)

/-- The longest command: an opcode, a count and 255 data bytes (R71). -/
def longestCommand : Nat := 257

/-- A table word of `nbits` bits laid out as command bytes, with zeros above it up to the longest command. -/
def tableCommand (nbits w : Nat) : List Byte := tableBytes (nbits / 8) w ++ List.replicate longestCommand 0#8

/-- The instruction the decoder reads from a word numbered as the opcode table numbers it. -/
def decodeTableWord (nbits w : Nat) : Option Instr :=
  match decode (tableCommand nbits w) with
  | .command i _ => some i
  | .illegalOpcode _ => none
  | .incomplete => none

end Sys2Proof
end

