-- ==== Sys2Proof/Machine/Fetch.lean ====
section
/-! DEFINITION. Receiving a command from the host port: 10_state.md R20 and R32, 30_encoding.md R72 and R77,
70_reset_and_hazards.md R340. -/

namespace Sys2Proof.Machine

/-- The command bytes that arrived before the first hardware reset, or all of them if none is pending. -/
def bytesBeforeReset : List PortInput → List Byte
  | .byte b :: rest => b :: bytesBeforeReset rest
  | .hwReset :: _ => []
  | [] => []

/-- What arrived from the first hardware reset on. -/
def fromReset : List PortInput → List PortInput
  | .byte _ :: rest => fromReset rest
  | .hwReset :: rest => .hwReset :: rest
  | [] => []

/-- Command bytes as arrivals on the port. -/
def portBytes (bs : List Byte) : List PortInput := bs.map .byte

/-- The arrivals without the first pending hardware reset, or `none` if no reset is pending. Bytes that arrived before it and
were not consumed stay on offer. DEDUCED (unsafe, log 1): R310 has a FAULTED core consume none of them, and R340 empties
the decoder, not the port. -/
def withoutReset : List PortInput → Option (List PortInput)
  | .byte b :: rest => (withoutReset rest).map (.byte b :: ·)
  | .hwReset :: rest => some rest
  | [] => none

/-- What the decoder has received (R32, R72, R77). -/
inductive Fetched where
  /-- a whole command, and the state once its bytes are consumed -/
  | command (i : Instr) (s : State)
  /-- an illegal opcode, and the state once that one byte is consumed (R77, R311) -/
  | illegal (s : State)
  /-- bytes are missing: the state with what has arrived in the decoder (R72) -/
  | waiting (s : State)
deriving DecidableEq, Repr

/-- Consume one command's bytes: the decoder's, then those that arrived before any pending hardware reset (R32, R72). -/
def fetch (s : State) : Fetched :=
  match decode (s.decoder ++ bytesBeforeReset s.hostIn) with
  | .command i rest => .command i { s with decoder := [], hostIn := portBytes rest ++ fromReset s.hostIn }
  | .illegalOpcode rest => .illegal { s with decoder := [], hostIn := portBytes rest ++ fromReset s.hostIn }
  | .incomplete =>
    .waiting { s with decoder := s.decoder ++ bytesBeforeReset s.hostIn, hostIn := fromReset s.hostIn }

/-- Take the pending hardware reset, if there is one (R340). -/
def takeReset (s : State) : Option State :=
  (withoutReset s.hostIn).map fun rest => hardwareReset { s with hostIn := rest }

/-- The bytes a table word stands for: those of the one command it begins with (the bits above `nbits` zero), or its first
byte where that is illegal. -/
def fetchWordBytes (nbits w : Nat) : List Byte :=
  match decode (tableCommand nbits w) with
  | .command _ rest => (tableCommand nbits w).take ((tableCommand nbits w).length - rest.length)
  | .illegalOpcode _ => (tableCommand nbits w).take 1
  | .incomplete => tableCommand nbits w

/-- A running core with an empty decoder to which the host has sent exactly these bytes. -/
def offerBytes (bs : List Byte) (s : State) : State :=
  { s with runState := .run, decoder := [], hostIn := portBytes bs }

end Sys2Proof.Machine
end

