-- ==== Sys2Proof/Machine/Step.lean ====
section
/-! DEFINITION. One step of the core: 10_state.md R31, 20_memory.md R57, 60_exceptions.md R310 to R314, 70_reset_and_hazards.md R340. -/

namespace Sys2Proof.Machine

/-- One step. A running core takes the next whole command and executes it, raises IllegalOpcode on an illegal opcode byte,
or waits for missing bytes (a wait changes nothing but where the bytes are held; log 2) until a hardware reset aborts it.
A FAULTED core consumes nothing: it takes a pending hardware reset, and without one it answers the fault outcome (log 3). -/
def step (s : State) : Host.Outcome State Fault Refusal :=
  match s.runState with
  | .faulted kind =>
    match takeReset s with
    | some t => .next t
    | none => .fault kind
  | .run =>
    match fetch s with
    | .command i t => exec i t
    | .illegal t => .next (raiseFault .illegalOpcode t)
    | .waiting t => .next ((takeReset t).getD t)

/-- The host has sent the command of this table word, and the core, running with an empty decoder, takes it next
(log 4). -/
def State.withFetchWord (s : State) (nbits w : Nat) : State := offerBytes (fetchWordBytes nbits w) s

end Sys2Proof.Machine
end

