-- ==== Sys2Proof/Machine/Pseudo.lean ====
section
/-! DEFINITION. The pseudo-instructions and their expansions (30_encoding.md R81, R96). -/

namespace Sys2Proof.Machine

/-- "Each is a sequence of real commands" (R81). -/
def expandPseudo : Pseudo → List Instr
  | .select a => [.busReset, .byteWrite romMatchCommand, .blockWrite a]
  | .skip => [.busReset, .byteWrite romSkipCommand]
  | .crc8 d => [.crc8Clear, .crc8Block d, .crc8Read]
  | .crc16 d seed => [.crc16Seed seed, .crc16Block d, .crc16Read]
  | .crc16Seal d => [.crc16Seed 0#16, .crc16Block d, .crc16Append]
  | .crc16Verify d => [.crc16Seed 0#16, .crc16Block d, .crc16Check]

/-- Commands executed one after the other, each completely (20_memory.md R57, R61); a FAULTED core executes no more of them
(10_state.md R31). -/
def execAll : List Instr → State → Result
  | [], s => .next s
  | i :: rest, s =>
    match s.runState with
    | .faulted _ => .next s
    | .run =>
      match exec i s with
      | .next t => execAll rest t
      | .fault r => .fault r
      | .refused r => .refused r

/-- "its effect and responses are those of the sequence" (R81). -/
def execPseudo (p : Pseudo) (s : State) : Result := execAll (expandPseudo p) s

end Sys2Proof.Machine
end

