-- ==== Sys2Proof/Machine/Assembler.lean ====
section
/-! DEFINITION. The assembler syntax of 30_encoding.md R80, with the pseudo-instructions of R81: text to command bytes. -/

namespace Sys2Proof.Machine

/-- An operand as written: a number, or a list of bytes in brackets (R80). -/
inductive AsmOperand where
  /-- a hexadecimal or decimal number -/
  | num (n : Nat)
  /-- `[d0, d1, ...]` -/
  | bytes (ns : List Nat)
deriving DecidableEq, Repr

/-! ## Reading a line -/

/-- The value of a digit, decimal or hexadecimal. -/
def digitValue (c : Char) : Option Nat :=
  if '0' ≤ c ∧ c ≤ '9' then some (c.toNat - 48)
  else if 'A' ≤ c ∧ c ≤ 'F' then some (c.toNat - 55)
  else if 'a' ≤ c ∧ c ≤ 'f' then some (c.toNat - 87)
  else none

/-- The digits of `base` at the front, added to the number read so far. -/
def readDigits (base : Nat) : Nat → List Char → Nat × List Char
  | acc, [] => (acc, [])
  | acc, c :: rest =>
    match digitValue c with
    | some d => if d < base then readDigits base (acc * base + d) rest else (acc, c :: rest)
    | none => (acc, c :: rest)

/-- The text begins with a digit of `base`. -/
def startsWithDigit (base : Nat) : List Char → Bool
  | [] => false
  | c :: _ => match digitValue c with
    | some d => decide (d < base)
    | none => false

/-- A number: "hexadecimal `0x..` or decimal" (R80). -/
def readNumber (cs : List Char) : Option (Nat × List Char) :=
  match cs with
  | '0' :: 'x' :: rest => if startsWithDigit 16 rest then some (readDigits 16 0 rest) else none
  | _ => if startsWithDigit 10 cs then some (readDigits 10 0 cs) else none

/-- The text without the blanks at its front. -/
def skipBlanks (cs : List Char) : List Char := cs.dropWhile fun c => c == ' ' || c == '\t'

/-- The numbers of a list after its opening bracket, each followed by a comma or the closing bracket; `fuel` bounds them. -/
def readItems : Nat → List Char → Option (List Nat × List Char)
  | 0, _ => none
  | fuel + 1, cs =>
    match readNumber (skipBlanks cs) with
    | none => none
    | some (n, rest) =>
      match skipBlanks rest with
      | ',' :: more => (readItems fuel more).map fun r => (n :: r.1, r.2)
      | ']' :: more => some ([n], more)
      | _ => none

/-- One operand: a byte list in brackets, or a number (R80). -/
def readOperand (cs : List Char) : Option (AsmOperand × List Char) :=
  match skipBlanks cs with
  | '[' :: rest =>
    match skipBlanks rest with
    | ']' :: more => some (.bytes [], more)
    | _ => (readItems rest.length rest).map fun r => (.bytes r.1, r.2)
  | other => (readNumber other).map fun r => (.num r.1, r.2)

/-- "operand, operand, ..." to the end of the line (R80); `fuel` bounds them. -/
def readOperands : Nat → List Char → Option (List AsmOperand)
  | 0, _ => none
  | fuel + 1, cs =>
    match readOperand cs with
    | none => none
    | some (o, rest) =>
      match skipBlanks rest with
      | [] => some [o]
      | ',' :: more => (readOperands fuel more).map (o :: ·)
      | _ => none

/-! ## Operands that fit their field -/

/-- A number within its field, which ends at `max`. -/
def fitNumber (max : Nat) : AsmOperand → Option Nat
  | .num n => if n ≤ max then some n else none
  | .bytes _ => none

/-- The numbers of a list as bytes, none out of range. -/
def fitBytes : List Nat → Option (List Byte)
  | [] => some []
  | n :: rest => if n ≤ 255 then (fitBytes rest).map (BitVec.ofNat 8 n :: ·) else none

/-- A list operand as bytes, refused unless its length lies between `least` and `most`. -/
def fitList (least most : Nat) : AsmOperand → Option (List Byte)
  | .num _ => none
  | .bytes ns => if least ≤ ns.length ∧ ns.length ≤ most then fitBytes ns else none

/-- A one-byte number operand. -/
def fitByte (o : AsmOperand) : Option Byte := (fitNumber 255 o).map (BitVec.ofNat 8)

/-- A 16-bit number operand. -/
def fitWord (o : AsmOperand) : Option Word16 := (fitNumber 65535 o).map (BitVec.ofNat 16)

/-- A BIT_WRITE operand: 0 or 1 (R80). -/
def fitBit (o : AsmOperand) : Option Byte := (fitNumber 1 o).map (BitVec.ofNat 8)

/-! ## Commands -/

/-- The commands a mnemonic and its operands stand for: one, or those of a pseudo-instruction (R80, R81). -/
def assembleCommand (mnemonic : String) (operands : List AsmOperand) : Option (List Instr) :=
  match mnemonic, operands with
  | "BUS_RESET", [] => some [.busReset]
  | "BIT_READ", [] => some [.bitRead]
  | "BIT_WRITE", [o] => (fitBit o).map fun b => [.bitWrite b]
  | "BYTE_READ", [] => some [.byteRead]
  | "BYTE_WRITE", [o] => (fitByte o).map fun v => [.byteWrite v]
  | "BLOCK_READ", [o] => (fitNumber 255 o).map fun n => [.blockRead n]
  | "BLOCK_WRITE", [o] => (fitList 0 255 o).map fun d => [.blockWrite d]
  | "CRC8_CLEAR", [] => some [.crc8Clear]
  | "CRC8_UPDATE", [o] => (fitByte o).map fun v => [.crc8Update v]
  | "CRC8_BLOCK", [o] => (fitList 0 255 o).map fun d => [.crc8Block d]
  | "CRC8_READ", [] => some [.crc8Read]
  | "ADDR_COMPLETE", [o] => (fitList 7 7 o).map fun a => [.addrComplete a]
  | "ADDR_CHECK", [o] => (fitList 8 8 o).map fun a => [.addrCheck a]
  | "CRC16_SEED", [o] => (fitWord o).map fun w => [.crc16Seed w]
  | "CRC16_UPDATE", [o] => (fitByte o).map fun v => [.crc16Update v]
  | "CRC16_BLOCK", [o] => (fitList 0 255 o).map fun d => [.crc16Block d]
  | "CRC16_READ", [] => some [.crc16Read]
  | "CRC16_APPEND", [] => some [.crc16Append]
  | "CRC16_CHECK", [] => some [.crc16Check]
  | "SEARCH_INIT", [] => some [.searchInit]
  | "SEARCH_PASS", [] => some [.searchPass]
  | "SCAN", [] => some [.scan]
  | "SEARCH_READ", [] => some [.searchRead]
  | "STATUS_READ", [] => some [.statusRead]
  | "SELECT", [o] => (fitList 8 8 o).map fun a => expandPseudo (.select a)
  | "SKIP", [] => some (expandPseudo .skip)
  | "CRC8", [o] => (fitList 0 255 o).map fun d => expandPseudo (.crc8 d)
  | "CRC16", [o, w] => (fitList 0 255 o).bind fun d => (fitWord w).map fun seed => expandPseudo (.crc16 d seed)
  | "CRC16_SEAL", [o] => (fitList 0 255 o).map fun d => expandPseudo (.crc16Seal d)
  | "CRC16_VERIFY", [o] => (fitList 0 255 o).map fun d => expandPseudo (.crc16Verify d)
  | _, _ => none

/-- One line: a `;` begins a comment, and an empty line is no command (R80). -/
def assembleLine (line : List Char) : Option (List Instr) :=
  match skipBlanks (line.takeWhile (· != ';')) with
  | [] => some []
  | code =>
    let isName := fun c : Char => c != ' ' && c != '\t'
    match skipBlanks (code.dropWhile isName) with
    | [] => assembleCommand (String.ofList (code.takeWhile isName)) []
    | operands =>
      (readOperands operands.length operands).bind fun os =>
        assembleCommand (String.ofList (code.takeWhile isName)) os

/-- The lines of a text. -/
def splitLines : List Char → List (List Char)
  | [] => [[]]
  | '\n' :: rest => [] :: splitLines rest
  | c :: rest =>
    match splitLines rest with
    | [] => [[c]]
    | line :: more => (c :: line) :: more

/-- The commands of several lines, or `none` if one of them is refused. -/
def assembleLines : List (List Char) → Option (List Instr)
  | [] => some []
  | line :: rest => (assembleLine line).bind fun is => (assembleLines rest).map (is ++ ·)

/-- The bytes of a command sequence on the host port (30_encoding.md R70, 20_memory.md R57). -/
def encodeAll : List Instr → List Byte
  | [] => []
  | i :: rest => encode i ++ encodeAll rest

/-- The command bytes a program text assembles to (R80). -/
def assemble (text : String) : Option (List Byte) := (assembleLines (splitLines text.toList)).map encodeAll

end Sys2Proof.Machine
end

