-- ==== Sys2Proof/Safety.lean ====
section
/-! DEFINITION. The words the claims use: the invariant of the core's state, a run that has not faulted, a history of
transactions that agrees with its environment, and the branch rule of a search. -/

namespace Sys2Proof.Machine

/-- LAST_DISC holds a position 1 to 64, or 0 (10_state.md R25). -/
abbrev State.DiscInRange (s : State) : Prop := s.lastDisc.toNat ≤ 64

/-- LAST_DISC > 0 implies LRV = 1 (44_rom_search.md R202). -/
abbrev State.DiscHasRom (s : State) : Prop := s.lastDisc ≠ 0#7 → s.lrv = true

/-- A recorded position is one at which the last completed pass took the 1-branch (44_rom_search.md R209, R215). -/
abbrev State.DiscAtOne (s : State) : Prop := s.lastDisc ≠ 0#7 → s.lastRom.getLsbD (s.lastDisc.toNat - 1) = true

/-- DONE = 1 only with LAST_DISC = 0, and a found address with LAST_DISC = 0 has DONE = 1 (10_state.md R28). -/
abbrev State.DoneMeansEnd (s : State) : Prop :=
  (s.done = true → s.lastDisc = 0#7) ∧ (s.lrv = true → s.lastDisc = 0#7 → s.done = true)

/-- LRV = 0 means that LAST_ROM holds no found address, and it is then zero (10_state.md R27, R341; 44_rom_search.md R220). -/
abbrev State.NoRomIsZero (s : State) : Prop := s.lrv = false → s.lastRom = 0#64

/-- The decoder holds only a command not yet fully received (10_state.md R32). -/
abbrev State.DecoderPartial (s : State) : Prop := decode s.decoder = .incomplete

/-- The invariant every step keeps. -/
structure State.Inv (s : State) : Prop where
  /-- the range of LAST_DISC -/
  discInRange : s.DiscInRange
  /-- R202 -/
  discHasRom : s.DiscHasRom
  /-- the recorded branch is the 1-branch -/
  discAtOne : s.DiscAtOne
  /-- DONE and LAST_DISC agree -/
  doneMeansEnd : s.DoneMeansEnd
  /-- no found address, no bits -/
  noRomIsZero : s.NoRomIsZero
  /-- only an incomplete command waits -/
  decoderPartial : s.DecoderPartial

/-- The core has not faulted: "a claim about a command stream takes 'no fault' as a premise" (60_exceptions.md R313). -/
abbrev State.Running (s : State) : Prop := s.runState = .run

/-- `k` steps, one after the other, up to the first fault or refusal. -/
def runSteps : Nat → State → Result
  | 0, s => .next s
  | k + 1, s =>
    match step s with
    | .next t => runSteps k t
    | .fault r => .fault r
    | .refused r => .refused r

/-- `k` steps answer a state and no step of them answered a fault or a refusal. -/
def SafeRun : Nat → State → Prop
  | 0, _ => True
  | k + 1, s => ∃ t, step s = .next t ∧ SafeRun k t

/-! ## The bus history -/

/-- The environment after a history of transactions. -/
def busAfter : Bus → List Transaction → Bus
  | b, [] => b
  | b, .reset _ :: rest => busAfter (busOnReset b).2 rest
  | b, .read _ :: rest => busAfter (busOnRead b).2 rest
  | b, .write x :: rest => busAfter (busOnWrite x b) rest

/-- Every answer in the history is the environment's, wherever the environment fixes one (60_exceptions.md R333). -/
def agreesWith : Bus → List Transaction → Prop
  | _, [] => True
  | b, .reset pf :: rest => (busOnReset b).1.getD pf = pf ∧ agreesWith (busOnReset b).2 rest
  | b, .read x :: rest => (busOnRead b).1.getD x = x ∧ agreesWith (busOnRead b).2 rest
  | b, .write x :: rest => agreesWith (busOnWrite x b) rest

/-- Nothing but the bus environment, its history and the free-value counter differs: what a BitChannel transaction may
change (40_bitchannel.md R101). -/
abbrev OnlyBusDiffers (s t : State) : Prop :=
  t = { s with bus := t.bus, busLog := t.busLog, freeNext := t.freeNext }

/-- How many transactions of a history are resets, read slots and write slots (70_reset_and_hazards.md R360). -/
def slotCounts : List Transaction → Nat × Nat × Nat
  | [] => (0, 0, 0)
  | .reset _ :: rest => ((slotCounts rest).1 + 1, (slotCounts rest).2.1, (slotCounts rest).2.2)
  | .read _ :: rest => ((slotCounts rest).1, (slotCounts rest).2.1 + 1, (slotCounts rest).2.2)
  | .write _ :: rest => ((slotCounts rest).1, (slotCounts rest).2.1, (slotCounts rest).2.2 + 1)

/-! ## The search -/

/-- The branch `d` a pass takes at bit index `i` when the two reads gave `pair` (44_rom_search.md R207, R209); no branch is
taken at `(1,1)`. -/
def BranchTaken (lastDisc : Disc) (lastRom : Rom) (i : Nat) (pair : Bool × Bool) (d : Bool) : Prop :=
  (pair = (false, true) ∧ d = false) ∨ (pair = (true, false) ∧ d = true) ∨
    (pair = (false, false) ∧
      ((i + 1 < lastDisc.toNat ∧ d = lastRom.getLsbD i) ∨ (i + 1 = lastDisc.toNat ∧ d = false) ∨
        (lastDisc.toNat < i + 1 ∧ d = true)))

/-- The slots of a pass from bit index `i` on: the two reads, then the write of that bit of `rom` (44_rom_search.md R206, R210). -/
def searchSlots (rom : Rom) : Nat → List (Bool × Bool) → List Transaction
  | _, [] => []
  | i, (b0, b1) :: rest => [.read b0, .read b1, .write (rom.getLsbD i)] ++ searchSlots rom (i + 1) rest

/-- The transactions before the first bit: the reset that answered presence, then SEARCH-ROM least significant bit first
(44_rom_search.md R204, R205). -/
def searchOpening : List Transaction :=
  [.reset false, .write false, .write false, .write false, .write false, .write true, .write true, .write true, .write true]

/-- Address `a` comes before `b` in a scan: its bit sequence, bit index 0 first, is the greater one (44_rom_search.md R219). -/
def foundBefore (a b : Rom) : Prop := b.reverse < a.reverse

/-- One row of a SEARCH_PASS response: status, address, LAST_DISC (44_rom_search.md R216). -/
structure PassRow where
  /-- the status -/
  status : Status
  /-- the address -/
  rom : Rom
  /-- LAST_DISC after the pass -/
  disc : Disc
deriving DecidableEq, Repr

/-- The ten bytes of a row (44_rom_search.md R216). -/
def PassRow.bytes (r : PassRow) : List Byte := statusCode r.status :: romBytes r.rom ++ [r.disc.setWidth 8]

/-- A row after which a scan goes on: a completed pass that left LAST_DISC > 0 (44_rom_search.md R225). -/
abbrev PassRow.goesOn (r : PassRow) : Prop :=
  (r.status = .ok ∨ r.status = .checksumMismatch) ∧ r.disc ≠ 0#7

end Sys2Proof.Machine
end

