-- ==== Sys2Proof/Certificates/Slice0/Obligations.lean ====
section
/-! DEFINITION. The statements for the provers. Rule numbers are those of spec/; "decision D<n>" and "derived" are the spec's own
marks on a rule. No statement rests on a free bus answer, on the reset value of MAX_PASSES or on the counter `freeNext`. -/

open Sys2Proof Sys2Proof.Machine

/-! ## Encoding (30_encoding.md; the encoding is the spec's decision D5) -/

/-- Command bytes written out from the opcode map decode to the command they stand for: each of its 24 rows with the operands of its
format, two of them followed by a byte that is left, one illegal opcode and one command with bytes missing (R71, R75, R77, R72, and the
examples of R80, R104, R123, R125, R127, R155, R157, R176; decision D5). -/
def Obligations.SpecWordsDecode : Prop :=
  (decode [0x01#8] = .command .busReset [] ∧
    decode [0x02#8] = .command .bitRead [] ∧
    decode [0x03#8, 0x01#8] = .command (.bitWrite 0x01#8) [] ∧
    decode [0x10#8] = .command .byteRead [] ∧
    decode [0x11#8, 0xF0#8] = .command (.byteWrite 0xF0#8) [] ∧
    decode [0x12#8, 0x02#8] = .command (.blockRead 2) [] ∧
    decode [0x13#8, 0x02#8, 0x28#8, 0xFF#8, 0x50#8] = .command (.blockWrite [0x28#8, 0xFF#8]) [0x50#8]) ∧
  (decode [0x20#8] = .command .crc8Clear [] ∧
    decode [0x21#8, 0x02#8] = .command (.crc8Update 0x02#8) [] ∧
    decode [0x22#8, 0x02#8, 0x01#8, 0x02#8] = .command (.crc8Block [0x01#8, 0x02#8]) [] ∧
    decode [0x23#8] = .command .crc8Read [] ∧
    decode [0x24#8, 0x02#8, 0x1C#8, 0xB8#8, 0x01#8, 0x00#8, 0x00#8, 0x00#8] =
      .command (.addrComplete [0x02#8, 0x1C#8, 0xB8#8, 0x01#8, 0x00#8, 0x00#8, 0x00#8]) [] ∧
    decode [0x25#8, 0x02#8, 0x1C#8, 0xB8#8, 0x01#8, 0x00#8, 0x00#8, 0x00#8, 0xA2#8] =
      .command (.addrCheck [0x02#8, 0x1C#8, 0xB8#8, 0x01#8, 0x00#8, 0x00#8, 0x00#8, 0xA2#8]) []) ∧
  (decode [0x30#8, 0x34#8, 0x12#8] = .command (.crc16Seed 0x1234#16) [] ∧
    decode [0x31#8, 0x01#8] = .command (.crc16Update 0x01#8) [] ∧
    decode [0x32#8, 0x02#8, 0x12#8, 0x34#8] = .command (.crc16Block [0x12#8, 0x34#8]) [] ∧
    decode [0x33#8] = .command .crc16Read [] ∧
    decode [0x34#8] = .command .crc16Append [] ∧
    decode [0x35#8] = .command .crc16Check []) ∧
  (decode [0x40#8] = .command .searchInit [] ∧
    decode [0x41#8, 0x50#8] = .command .searchPass [0x50#8] ∧
    decode [0x42#8] = .command .scan [] ∧
    decode [0x43#8] = .command .searchRead [] ∧
    decode [0x50#8] = .command .statusRead []) ∧
  decode [0x51#8, 0x50#8] = .illegalOpcode [0x50#8] ∧
  decode [0x22#8, 0x05#8, 0x01#8, 0x02#8] = .incomplete

/-- The decoder reads a command exactly from its encoding: whatever it reads has operands that fit the format and was
spelled by these bytes, and every command whose operands fit is read back with the bytes after it (R70, R71, R73, R75, R79;
decision D5). -/
def Obligations.DecodeIffEncode : Prop :=
  ∀ (bs : List Byte) (i : Instr) (rest : List Byte),
    decode bs = .command i rest ↔ i.fitsFormat = true ∧ bs = encode i ++ rest

/-- The decoder waits exactly on the bytes that some command extends (R72; decision D23). -/
def Obligations.IncompleteIffBytesMissing : Prop :=
  ∀ bs : List Byte, decode bs = .incomplete ↔
    ∃ (i : Instr) (missing : List Byte), i.fitsFormat = true ∧ missing ≠ [] ∧ encode i = bs ++ missing

/-- The illegal opcodes are the 232 values R77 lists, and only the opcode byte is consumed (R77, R311; decision D7). -/
def Obligations.IllegalOpcodeRanges : Prop :=
  ∀ (op : Byte) (bs rest : List Byte), decode (op :: bs) = .illegalOpcode rest ↔
    rest = bs ∧
      (op.toNat = 0 ∨ (0x04 ≤ op.toNat ∧ op.toNat ≤ 0x0F) ∨ (0x14 ≤ op.toNat ∧ op.toNat ≤ 0x1F) ∨
        (0x26 ≤ op.toNat ∧ op.toNat ≤ 0x2F) ∨ (0x36 ≤ op.toNat ∧ op.toNat ≤ 0x3F) ∨
        (0x44 ≤ op.toNat ∧ op.toNat ≤ 0x4F) ∨ 0x51 ≤ op.toNat)

/-- The assembler accepts only well-formed commands (R80; decision D28). -/
def Obligations.AssembledCommandsWellFormed : Prop :=
  ∀ (line : List Char) (is : List Instr), assembleLine line = some is → ∀ i ∈ is, i.WellFormed

/-- Each mnemonic accepts the operands of its format exactly when they fit their fields, and then stands for that command or, for a
pseudo-instruction, its sequence: a bit up to 1, a byte up to 255, a seed up to 65535, a list of at most 255 bytes, or of exactly 7 or 8
for an address; a number out of range, also inside a list, and a list of another length are refused, never cut (R80, R81; decision D28).
The bound of a pseudo-instruction's lists is log 15. -/
def Obligations.AssemblerFieldRanges : Prop :=
  (∀ p ∈ [("BUS_RESET", Instr.busReset), ("BIT_READ", .bitRead), ("BYTE_READ", .byteRead), ("CRC8_CLEAR", .crc8Clear),
      ("CRC8_READ", .crc8Read), ("CRC16_READ", .crc16Read), ("CRC16_APPEND", .crc16Append), ("CRC16_CHECK", .crc16Check),
      ("SEARCH_INIT", .searchInit), ("SEARCH_PASS", .searchPass), ("SCAN", .scan), ("SEARCH_READ", .searchRead),
      ("STATUS_READ", .statusRead)],
    assembleCommand p.1 [] = some [p.2] ∧ ∀ o : AsmOperand, assembleCommand p.1 [o] = none) ∧
  assembleCommand "SKIP" [] = some [.busReset, .byteWrite 0xCC#8] ∧
  (∀ n : Nat,
    assembleCommand "BIT_WRITE" [.num n] = (if n ≤ 1 then some [.bitWrite (BitVec.ofNat 8 n)] else none) ∧
    assembleCommand "BLOCK_READ" [.num n] = (if n ≤ 255 then some [.blockRead n] else none) ∧
    assembleCommand "CRC16_SEED" [.num n] = (if n ≤ 65535 then some [.crc16Seed (BitVec.ofNat 16 n)] else none)) ∧
  (∀ p ∈ [("BYTE_WRITE", Instr.byteWrite), ("CRC8_UPDATE", .crc8Update), ("CRC16_UPDATE", .crc16Update)],
    ∀ n : Nat, assembleCommand p.1 [.num n] = if n ≤ 255 then some [p.2 (BitVec.ofNat 8 n)] else none) ∧
  (∀ name ∈ ["BIT_WRITE", "BLOCK_READ", "CRC16_SEED", "BYTE_WRITE", "CRC8_UPDATE", "CRC16_UPDATE"],
    ∀ ns : List Nat, assembleCommand name [] = none ∧ assembleCommand name [.bytes ns] = none) ∧
  (∀ p ∈ [("BLOCK_WRITE", fun d => [Instr.blockWrite d]), ("CRC8_BLOCK", fun d => [.crc8Block d]),
      ("CRC16_BLOCK", fun d => [.crc16Block d]), ("CRC8", fun d => [.crc8Clear, .crc8Block d, .crc8Read]),
      ("CRC16_SEAL", fun d => [.crc16Seed 0x0000#16, .crc16Block d, .crc16Append]),
      ("CRC16_VERIFY", fun d => [.crc16Seed 0x0000#16, .crc16Block d, .crc16Check])],
    ∀ (ns : List Nat) (n : Nat), assembleCommand p.1 [.num n] = none ∧ assembleCommand p.1 [.bytes ns] =
      if ns.length ≤ 255 ∧ ∀ m ∈ ns, m ≤ 255 then some (p.2 (ns.map (BitVec.ofNat 8))) else none) ∧
  (∀ p ∈ [("ADDR_COMPLETE", 7, fun a => [Instr.addrComplete a]), ("ADDR_CHECK", 8, fun a => [.addrCheck a]),
      ("SELECT", 8, fun a => [.busReset, .byteWrite 0x55#8, .blockWrite a])],
    ∀ (ns : List Nat) (n : Nat), assembleCommand p.1 [.num n] = none ∧ assembleCommand p.1 [.bytes ns] =
      if ns.length = p.2.1 ∧ ∀ m ∈ ns, m ≤ 255 then some (p.2.2 (ns.map (BitVec.ofNat 8))) else none) ∧
  ∀ (ns : List Nat) (n : Nat), assembleCommand "CRC16" [.bytes ns, .num n] =
    if ns.length ≤ 255 ∧ (∀ m ∈ ns, m ≤ 255) ∧ n ≤ 65535 then
      some [.crc16Seed (BitVec.ofNat 16 n), .crc16Block (ns.map (BitVec.ofNat 8)), .crc16Read] else none

/-- From text: any decimal number, and any hexadecimal number after 0x, is read as its value, so that a one-byte field accepts it up to
255 and a 16-bit field up to 65535, and refuses it above; and lines of each format as R80 and R81 write them (R80, R81; decision D28).
That a number may be written with leading zeros, and hexadecimal digits in capitals, is log 15. -/
def Obligations.AssemblerReadsLines : Prop :=
  (∀ cs : List Char, cs ≠ [] → (∀ c ∈ cs, '0' ≤ c ∧ c ≤ '9') →
    ∀ n : Nat, n = cs.foldl (fun v c => 10 * v + (c.toNat - 48)) 0 →
    assembleLine ("BYTE_WRITE ".toList ++ cs) = (if n ≤ 255 then some [.byteWrite (BitVec.ofNat 8 n)] else none) ∧
    assembleLine ("CRC16_SEED ".toList ++ cs) = (if n ≤ 65535 then some [.crc16Seed (BitVec.ofNat 16 n)] else none)) ∧
  (∀ cs : List Char, cs ≠ [] → (∀ c ∈ cs, ('0' ≤ c ∧ c ≤ '9') ∨ ('A' ≤ c ∧ c ≤ 'F')) →
    ∀ n : Nat, n = cs.foldl (fun v c => 16 * v + if c ≤ '9' then c.toNat - 48 else c.toNat - 55) 0 →
    assembleLine ("BYTE_WRITE 0x".toList ++ cs) = (if n ≤ 255 then some [.byteWrite (BitVec.ofNat 8 n)] else none) ∧
    assembleLine ("CRC16_SEED 0x".toList ++ cs) = (if n ≤ 65535 then some [.crc16Seed (BitVec.ofNat 16 n)] else none)) ∧
  assembleLine "".toList = some [] ∧
  assembleLine "; a comment".toList = some [] ∧
  assembleLine "CRC8_CLEAR ; 20".toList = some [.crc8Clear] ∧
  assembleLine "BIT_WRITE 1".toList = some [.bitWrite 0x01#8] ∧
  assembleLine "BIT_WRITE 2".toList = none ∧
  assembleLine "BLOCK_READ 9".toList = some [.blockRead 9] ∧
  assembleLine "BLOCK_READ 256".toList = none ∧
  assembleLine "BLOCK_WRITE [0x28, 0xFF]".toList = some [.blockWrite [0x28#8, 0xFF#8]] ∧
  assembleLine "BLOCK_WRITE [0x28, 256]".toList = none ∧
  assembleLine "ADDR_COMPLETE [0x02,0x1C,0xB8,0x01,0,0,0]".toList =
    some [.addrComplete [0x02#8, 0x1C#8, 0xB8#8, 0x01#8, 0x00#8, 0x00#8, 0x00#8]] ∧
  assembleLine "ADDR_CHECK [0x02,0x1C,0xB8,0x01,0,0,0]".toList = none ∧
  assembleLine "CRC16 [1, 2], 0x1234".toList = some [.crc16Seed 0x1234#16, .crc16Block [0x01#8, 0x02#8], .crc16Read]

/-! ## The step, faults and reset (10_state.md, 60_exceptions.md, 70_reset_and_hazards.md) -/

/-- When the received bytes decode to a command, the step is that command's meaning after its bytes are consumed
(R32, R57, R72; decisions D20, D23). The port's form is the model's (log 1). A hardware reset may be pending behind those bytes: that
the command runs first is the model's reading of R340 (log 11). -/
def Obligations.StepRunsDecodedCommand : Prop :=
  ∀ (s : State) (i : Instr) (rest : List Byte), s.Running →
    decode (s.decoder ++ bytesBeforeReset s.hostIn) = .command i rest →
    step s = exec i { s with decoder := [], hostIn := portBytes rest ++ fromReset s.hostIn }

/-- A command whose first bytes wait in the decoder and whose other bytes have arrived is run by the next step, and what
arrived after it stays on the port (R57, R70, R72; decisions D5, D20, D23). The port's form is the model's (log 1). What arrived after
it may hold a hardware reset: that the command runs first is the model's reading of R340 (log 11). -/
def Obligations.StepRunsArrivedCommand : Prop :=
  ∀ (s : State) (i : Instr) (held arrived : List Byte) (more : List PortInput), s.Running → i.fitsFormat = true →
    held ++ arrived = encode i → s.decoder = held → s.hostIn = portBytes arrived ++ more →
    step s = exec i { s with decoder := [], hostIn := more }

/-- A stream of well-formed commands is run one command a step, and its effect is that of executing each command completely,
in stream order (R57, R61; decision D20). The port's form is the model's (log 1). What arrived after the stream may hold a hardware
reset: that the stream runs first is the model's reading of R340 (log 11). -/
def Obligations.StreamIsSequenceOfCommands : Prop :=
  ∀ (is : List Instr) (s : State) (more : List PortInput), (∀ i ∈ is, i.WellFormed) → s.Running → s.decoder = [] →
    s.hostIn = portBytes (encodeAll is) ++ more →
    runSteps is.length s = execAll is { s with hostIn := more } ∧
      ∃ t : State, execAll is { s with hostIn := more } = .next t ∧ t.Running ∧ t.hostIn = more ∧ t.decoder = []

/-- A running core that is sent only well-formed commands never faults, however long it runs (R310, R313; decision D7). That it goes on
stepping after the last command is how the model renders waiting (log 2). -/
def Obligations.WellFormedStreamIsSafe : Prop :=
  ∀ (is : List Instr) (s : State), (∀ i ∈ is, i.WellFormed) → s.Running → s.decoder = [] →
    s.hostIn = portBytes (encodeAll is) → ∀ k : Nat, SafeRun k s

/-- An illegal opcode byte: that byte is consumed and RUNSTATE becomes FAULTED; nothing else changes (R77, R310, R311;
decision D7). The port's form is the model's (log 1), and the fault kind in RUNSTATE its record (log 3). What arrived after the byte may
hold a hardware reset: that the byte is decoded and faults first is the model's reading of R340 (log 11). -/
def Obligations.IllegalOpcodeFaultsPrecisely : Prop :=
  ∀ (s : State) (op : Byte) (more : List PortInput), s.Running → s.decoder = [] → s.hostIn = .byte op :: more →
    decode [op] = .illegalOpcode [] →
    step s = .next { s with hostIn := more, runState := .faulted .illegalOpcode }

/-- A FAULTED core without a pending hardware reset consumes nothing and its step is the fault outcome; a pending hardware
reset restarts it with every register at its reset value, and the responses, the bus and its history stand (R31, R313, R340,
R341; decisions D3, D7). That a FAULTED core's step is the fault outcome is the model's rendering (log 3), that unconsumed bytes stay on
offer its reading (log 1), and so is that the reset is taken ahead of them (log 11). -/
def Obligations.FaultedUntilHardwareReset : Prop :=
  ∀ (s : State) (kind : Fault), s.runState = .faulted kind →
    (.hwReset ∉ s.hostIn → step s = .fault kind) ∧
    (∀ (before : List Byte) (more : List PortInput), s.hostIn = portBytes before ++ .hwReset :: more →
      step s = .next { State.reset with
        hostIn := portBytes before ++ more, hostOut := s.hostOut, bus := s.bus, busLog := s.busLog,
        freeNext := s.freeNext, maxPasses := s.maxPasses })

/-- While bytes of a command are missing the core performs no transaction and changes no register; it only holds the bytes
that have come (R72, R314; decision D23). A wait is a step to the same registers (log 2). -/
def Obligations.MissingBytesOnlyWait : Prop :=
  ∀ (s : State) (bs : List Byte), s.Running → s.hostIn = portBytes bs → decode (s.decoder ++ bs) = .incomplete →
    step s = .next { s with decoder := s.decoder ++ bs, hostIn := [] } ∧
    step { s with decoder := s.decoder ++ bs, hostIn := [] } =
      .next { s with decoder := s.decoder ++ bs, hostIn := [] }

/-- The hardware reset aborts a command still waiting for operand bytes: registers at their reset values, decoder empty,
RUNSTATE = RUN, no transaction, no response byte (R340, R341; decision D3). That the bytes that came before it are received and the
reset then taken, in one step, is the model's rendering (log 2, log 11). -/
def Obligations.HardwareResetAbortsCommand : Prop :=
  ∀ (s : State) (bs : List Byte) (more : List PortInput), s.Running → s.hostIn = portBytes bs ++ .hwReset :: more →
    decode (s.decoder ++ bs) = .incomplete →
    step s = .next { State.reset with
      hostIn := more, hostOut := s.hostOut, bus := s.bus, busLog := s.busLog, freeNext := s.freeNext,
      maxPasses := s.maxPasses }

/-- The state after reset (R341; decision D3): every register zero, RUN, an empty decoder, and STATUS reads 0x00. -/
def Obligations.ResetRegisterValues : Prop :=
  State.reset.crc8Acc = 0x00#8 ∧ State.reset.crc16Acc = 0x0000#16 ∧ State.reset.lastDisc = 0#7 ∧
  romBytes State.reset.lastRom = List.replicate 8 0x00#8 ∧ State.reset.lrv = false ∧ State.reset.done = false ∧
  State.reset.pf = false ∧ State.reset.runState = .run ∧ State.reset.decoder = [] ∧ statusByte State.reset = 0x00#8

/-- A step always answers a next state, but for a FAULTED core with no hardware reset pending, whose step is the recorded
fault (R31, R310, R313; decision D7). That the step that raises a fault answers a next state, and the later ones the fault outcome, is
the model's rendering (log 3), and so is that a waiting core steps to a next state (log 2). -/
def Obligations.StepStopsOnlyWhenFaulted : Prop :=
  ∀ s : State, (∃ t, step s = .next t) ∨
    (∃ kind, s.runState = .faulted kind ∧ .hwReset ∉ s.hostIn ∧ step s = .fault kind)

/-- Every step keeps the invariant: LAST_DISC within 0 to 64 (R25), LAST_DISC > 0 only with LRV = 1 (R202) and at a position
whose bit of LAST_ROM is 1 (R209), DONE only at the end of a traversal (R28), LAST_ROM zero without a found address
(R27), only an incomplete command in the decoder (R32). The spec marks R25's and R202's invariants as derived. -/
def Obligations.StepKeepsInvariant : Prop := ∀ s t : State, s.Inv → step s = .next t → t.Inv

/-- The state after reset meets the invariant (R341; decision D3). -/
def Obligations.ResetMeetsInvariant : Prop := State.reset.Inv

/-! ## Whole-machine rules -/

/-- Which commands write which register, as the register table of 10_state.md section 2 says (R23 to R31); no command touches the
arrivals, the decoder or MAX_PASSES. Decisions D2, D3, D14, D15. -/
def Obligations.RegisterWriters : Prop :=
  ∀ (i : Instr) (s t : State), exec i s = .next t →
    ((¬ ∃ v d, i = .crc8Clear ∨ i = .crc8Update v ∨ i = .crc8Block d) → t.crc8Acc = s.crc8Acc) ∧
    ((¬ ∃ w v d, i = .crc16Seed w ∨ i = .crc16Update v ∨ i = .crc16Block d) → t.crc16Acc = s.crc16Acc) ∧
    (i ≠ .searchInit → i ≠ .searchPass → i ≠ .scan →
      t.lastDisc = s.lastDisc ∧ t.lastRom = s.lastRom ∧ t.lrv = s.lrv ∧ t.done = s.done) ∧
    (i ≠ .busReset → i ≠ .searchPass → i ≠ .scan → t.pf = s.pf) ∧
    (i.reservedZero = true → t.runState = s.runState) ∧
    t.hostIn = s.hostIn ∧ t.decoder = s.decoder ∧ t.maxPasses = s.maxPasses

/-- Every answer the core receives is the environment's wherever the environment fixes one, in the order of the
transactions, and the environment is left as those transactions leave it: no transaction is split, merged, repeated or
reordered (R58, R60, R61, R333; R60 and R61 are marked derived, R333 decision D22). -/
def Obligations.BusAnswersAreTheEnvironments : Prop :=
  ∀ (i : Instr) (s : State), ∃ (t : State) (new : List Transaction), exec i s = .next t ∧
    t.busLog = s.busLog ++ new ∧ agreesWith s.bus new ∧ t.bus = busAfter s.bus new

/-- The transaction counts of the table of R360 (derived; decision D21), each tied to the outcome it belongs to. For SEARCH_PASS the outcome
is the status it responds (R216, R300; decisions D6, D17), and an abort at bit index k is one after k bit indices with their two reads
and one write. For SCAN (R225, R226; decisions D11, D12) the completed passes are the addresses it responds, valid and rejected, and a
failed pass adds its own count. -/
def Obligations.TransactionCounts : Prop :=
  ∀ (i : Instr) (s t : State) (new : List Transaction), i.WellFormed → exec i s = .next t → t.busLog = s.busLog ++ new →
    match i with
    | .busReset => slotCounts new = (1, 0, 0)
    | .bitRead => slotCounts new = (0, 1, 0)
    | .bitWrite _ => slotCounts new = (0, 0, 1)
    | .byteRead => slotCounts new = (0, 8, 0)
    | .byteWrite _ => slotCounts new = (0, 0, 8)
    | .blockRead n => slotCounts new = (0, 8 * n, 0)
    | .blockWrite d => slotCounts new = (0, 0, 8 * d.length)
    | .searchPass => ∃ row : PassRow, t.hostOut = s.hostOut ++ row.bytes ∧
      match row.status with
      | .ok | .checksumMismatch => slotCounts new = (1, 128, 72)
      | .busFault => new = [.reset true] ∧ slotCounts new = (1, 0, 0)
      | .searchAbort => ∃ (k : Nat) (rom : Rom) (pairs : List (Bool × Bool)), k < 64 ∧ pairs.length = k ∧
        new = searchOpening ++ searchSlots rom 0 pairs ++ [.read true, .read true] ∧
        slotCounts new = (1, 2 * (k + 1), 8 + k)
      | .passLimit => False
    | .scan => ∃ (status : Status) (valid rejected : List Rom) (m : Nat),
      t.hostOut = s.hostOut ++ scanResponse status valid rejected ∧ m = valid.length + rejected.length ∧
      match status with
      | .ok => 1 ≤ m ∧ m ≤ s.maxPasses.val ∧ slotCounts new = (m, 128 * m, 72 * m)
      | .passLimit => m = s.maxPasses.val ∧ slotCounts new = (m, 128 * m, 72 * m)
      | .busFault => m < s.maxPasses.val ∧ slotCounts new = (m + 1, 128 * m, 72 * m)
      | .searchAbort => m < s.maxPasses.val ∧
        ∃ k < 64, slotCounts new = (m + 1, 128 * m + 2 * (k + 1), 72 * m + 8 + k)
      | .checksumMismatch => False
    | .crc8Clear | .crc8Update _ | .crc8Block _ | .crc8Read | .addrComplete _ | .addrCheck _ => new = []
    | .crc16Seed _ | .crc16Update _ | .crc16Block _ | .crc16Read | .crc16Append | .crc16Check => new = []
    | .searchInit | .searchRead | .statusRead => new = []

/-- The response lengths of the opcode map, and responses are only appended (R75, R76; decisions D5, D6). -/
def Obligations.ResponseLengths : Prop :=
  ∀ (i : Instr) (s : State), i.WellFormed → ∃ (t : State) (out : List Byte), exec i s = .next t ∧
    t.hostOut = s.hostOut ++ out ∧
    match i with
    | .busReset | .bitRead | .byteRead | .crc8Read | .addrCheck _ | .crc16Check | .statusRead => out.length = 1
    | .crc16Read | .crc16Append => out.length = 2
    | .blockRead n => out.length = n
    | .addrComplete _ => out.length = 8
    | .searchPass => out.length = 10
    | .searchRead => out.length = 9
    | .scan => ∃ v j : Nat, v + j ≤ s.maxPasses.val ∧ out.length = 5 + 8 * (v + j)
    | .bitWrite _ | .byteWrite _ | .blockWrite _ | .crc8Clear | .crc8Update _ | .crc8Block _ => out = []
    | .crc16Seed _ | .crc16Update _ | .crc16Block _ | .searchInit => out = []

/-- Only CRC8_UPDATE, CRC8_BLOCK and CRC8_READ can tell one value of CRC8_ACC from another: CRC8_CLEAR writes 0x00 whatever it held, and
every other command, the address commands and the search among them, does the same whatever it holds and carries it along
(R23; decision D14). -/
def Obligations.CrcAccumulatorIsPrivate : Prop :=
  ∀ (i : Instr) (s t : State) (x : Byte), (¬ ∃ v d, i = .crc8Update v ∨ i = .crc8Block d ∨ i = .crc8Read) →
    exec i s = .next t →
    exec i { s with crc8Acc := x } = .next { t with crc8Acc := if i = .crc8Clear then 0x00#8 else x } ∧
      t.crc8Acc = if i = .crc8Clear then 0x00#8 else s.crc8Acc

/-! ## BitChannel commands (40_bitchannel.md) -/

/-- BUS_RESET: one reset, its presence-fault bit in PF and in the response (R100). On the reference devices the answer says whether the
population is empty, and every device then awaits a command with no bit of it received, so that any search has ended (R101, R330;
decision D22). -/
def Obligations.BusResetResult : Prop :=
  encode .busReset = [0x01#8] ∧
  ∀ s : State, ∃ (p : Bool) (t : State), exec .busReset s = .next t ∧
    t = { s with
      pf := p, hostOut := s.hostOut ++ [if p then 0x01#8 else 0x00#8], busLog := s.busLog ++ [.reset p],
      bus := t.bus, freeNext := t.freeNext } ∧
    (∀ (a : Bool) (rest : List Bool), s.bus = .oracle (a :: rest) → p = a ∧ t.bus = .oracle rest) ∧
    (∀ (population : List Rom) (phase : DevicePhase), s.bus = .devices population phase →
      (p = true ↔ population = []) ∧ t.bus = .devices population (.awaitCommand []))

/-- BIT_READ: one read slot and its bit as the response; no register is written (R102). -/
def Obligations.BitReadResult : Prop :=
  encode .bitRead = [0x02#8] ∧
  ∀ s : State, ∃ (b : Bool) (t : State), exec .bitRead s = .next t ∧
    t = { s with
      hostOut := s.hostOut ++ [if b then 0x01#8 else 0x00#8], busLog := s.busLog ++ [.read b],
      bus := t.bus, freeNext := t.freeNext } ∧
    (∀ (a : Bool) (rest : List Bool), s.bus = .oracle (a :: rest) → b = a ∧ t.bus = .oracle rest) ∧
    (∀ (a : Bool) (rest : List Bool), s.bus = .loopback (a :: rest) → b = a ∧ t.bus = .loopback rest)

/-- BIT_WRITE: one write slot of operand bit 0 when bits 7:1 are zero; otherwise ReservedOperand, with no transaction and
nothing else changed (R104, R78, R310, R312; decision D7). That the reserved operands decode to a command, whose meaning raises the
fault, is the model's reading (log 12), and the fault's kind in RUNSTATE the model's record (log 3). -/
def Obligations.BitWriteResult : Prop :=
  (∀ b : Byte, encode (.bitWrite b) = [0x03#8, b] ∧ decode [0x03#8, b] = .command (.bitWrite b) []) ∧
  (∀ (b : Bool) (s : State), exec (.bitWrite (if b then 0x01#8 else 0x00#8)) s =
    .next { s with bus := busOnWrite b s.bus, busLog := s.busLog ++ [.write b] }) ∧
  ∀ (v : Byte) (s : State), 2 ≤ v.toNat → exec (.bitWrite v) s =
    .next { s with runState := .faulted .reservedOperand }

/-! ## ByteCodec commands (41_bytecodec.md) -/

/-- BYTE_READ and BYTE_WRITE move a byte in eight slots, least significant bit first, and write no register
(R53, R121, R123). -/
def Obligations.ByteCodecLsbFirst : Prop :=
  encode .byteRead = [0x10#8] ∧ (∀ v : Byte, encode (.byteWrite v) = [0x11#8, v]) ∧
  (∀ (v : Byte) (s : State), exec (.byteWrite v) s = .next { s with
    bus := (List.ofFn fun k : Fin 8 => v.getLsbD k).foldl (fun e b => busOnWrite b e) s.bus,
    busLog := s.busLog ++ List.ofFn fun k : Fin 8 => .write (v.getLsbD k) }) ∧
  ∀ s : State, ∃ (v : Byte) (t : State), exec .byteRead s = .next t ∧
    t = { s with
      hostOut := s.hostOut ++ [v], busLog := s.busLog ++ List.ofFn fun k : Fin 8 => .read (v.getLsbD k),
      bus := t.bus, freeNext := t.freeNext } ∧
    ∀ answers rest : List Bool, answers.length = 8 → s.bus = .oracle (answers ++ rest) →
      (List.ofFn fun k : Fin 8 => v.getLsbD k) = answers ∧ t.bus = .oracle rest

/-- BLOCK_READ n: 8·n read slots in order, n bytes in the response, the first-read byte first (R125). -/
def Obligations.BlockReadResult : Prop :=
  (∀ n : Nat, n ≤ 255 → encode (.blockRead n) = [0x12#8, BitVec.ofNat 8 n]) ∧
  ∀ (n : Nat) (s : State), ∃ (out : List Byte) (t : State), exec (.blockRead n) s = .next t ∧ out.length = n ∧
    t = { s with
      hostOut := s.hostOut ++ out, busLog := s.busLog ++ (out.flatMap byteBits).map .read,
      bus := t.bus, freeNext := t.freeNext } ∧
    ∀ answers rest : List Bool, answers.length = 8 * n → s.bus = .oracle (answers ++ rest) →
      out.flatMap byteBits = answers ∧ t.bus = .oracle rest

/-- BLOCK_WRITE: 8·n write slots, d[0] first, and none before all the data has been received: while any byte of the command is missing,
whatever part of it the decoder already holds, a step only holds the bytes that have come (R127, R72; decision D23). That this waiting
is a step to a next state is the model's rendering (log 2). -/
def Obligations.BlockWriteResult : Prop :=
  (∀ d : List Byte, d.length ≤ 255 → encode (.blockWrite d) = 0x13#8 :: BitVec.ofNat 8 d.length :: d ∧
    ∀ held arrived missing : List Byte, held ++ arrived ++ missing = encode (.blockWrite d) → missing ≠ [] →
      ∀ s : State, s.Running → s.decoder = held → s.hostIn = portBytes arrived →
        step s = .next { s with decoder := held ++ arrived, hostIn := [] }) ∧
  ∀ (d : List Byte) (s : State), exec (.blockWrite d) s = .next { s with
    bus := (d.flatMap byteBits).foldl (fun e b => busOnWrite b e) s.bus,
    busLog := s.busLog ++ (d.flatMap byteBits).map .write }

/-- A block split in two gives the same bus transactions and the same response as the whole block (R126, derived and decision
D8). -/
def Obligations.BlocksMayBeSplit : Prop :=
  ∀ (d e : List Byte) (m n : Nat) (s : State), s.Running →
    execAll [.blockWrite d, .blockWrite e] s = exec (.blockWrite (d ++ e)) s ∧
    execAll [.blockRead m, .blockRead n] s = exec (.blockRead (m + n)) s

/-- Round trip: through a loop-back BitChannel a block written and then read back is the same block (R122, derived; R332). -/
def Obligations.LoopbackRoundTrip : Prop :=
  ∀ (d : List Byte) (s : State), s.Running → s.bus = .loopback [] →
    ∃ t : State, execAll [.blockWrite d, .blockRead d.length] s = .next t ∧ t.hostOut = s.hostOut ++ d ∧
      t.bus = .loopback []

/-! ## CRC-8 (42_crc8.md) -/

/-- The per-byte step: the low bit is tested before the shift, then 0x8C is XORed in, eight times (R141); and the worked trace from
0x01, which R141 marks as derived from this rule. -/
def Obligations.CrcEightByteStep : Prop :=
  (∀ acc b : Byte, crc8Byte acc b =
    (fun c : Byte => BitVec.ofNat 8 (if c.toNat % 2 = 1 then c.toNat / 2 ^^^ 0x8C else c.toNat / 2))^[8] (acc ^^^ b)) ∧
  (List.range 9).map (fun n => crc8Iterations n 0x01#8) =
    [0x01#8, 0x8C#8, 0x46#8, 0x23#8, 0x9D#8, 0xC2#8, 0x61#8, 0xBC#8, 0x5E#8]

/-- CRC8_UPDATE folds one byte into CRC8_ACC and CRC8_READ returns it without clearing it; nothing else changes (R146, R148). -/
def Obligations.CrcEightUpdateAndRead : Prop :=
  encode .crc8Read = [0x23#8] ∧ (∀ v : Byte, encode (.crc8Update v) = [0x21#8, v]) ∧
  (∀ (v : Byte) (s : State), exec (.crc8Update v) s = .next { s with crc8Acc := crc8Byte s.crc8Acc v } ∧
    (v = s.crc8Acc → exec (.crc8Update v) s = .next { s with crc8Acc := 0x00#8 })) ∧
  ∀ s : State, exec .crc8Read s = .next { s with hostOut := s.hostOut ++ [s.crc8Acc] }

/-- CRC8_CLEAR writes 0x00 (R145, decision D4) and CRC8_BLOCK folds its bytes in order from the current value, however the bytes
are split (R147, derived in part). -/
def Obligations.CrcEightClearAndBlock : Prop :=
  (∀ s : State, exec .crc8Clear s = .next { s with crc8Acc := 0x00#8 }) ∧
  (∀ (d : List Byte) (s : State), exec (.crc8Block d) s = .next { s with crc8Acc := d.foldl crc8Byte s.crc8Acc }) ∧
  ∀ (d e : List Byte) (s : State), s.Running →
    execAll [.crc8Block d, .crc8Block e] s = exec (.crc8Block (d ++ e)) s

/-- crc8(p ++ [crc8(p)]) = 0 for every payload, and for an 8-byte address the two forms of the test agree (R143, R144; R144 and
the lengths other than 7 are marked derived). -/
def Obligations.CrcEightResidue : Prop :=
  (∀ p : List Byte, crc8 (p ++ [crc8 p]) = 0x00#8) ∧
  ∀ (p : List Byte) (c : Byte), p.length = 7 → (crc8 p = c ↔ crc8 (p ++ [c]) = 0x00#8)

/-- ADDR_COMPLETE responds with the seven bytes and their CRC-8, and changes nothing else (R155). -/
def Obligations.AddrCompleteResult : Prop :=
  (∀ a : List Byte, a.length = 7 → encode (.addrComplete a) = 0x24#8 :: a ∧
    decode (0x24#8 :: a) = .command (.addrComplete a) []) ∧
  (∀ (a : List Byte) (s : State), exec (.addrComplete a) s =
    .next { s with hostOut := s.hostOut ++ a ++ [a.foldl crc8Byte 0x00#8] }) ∧
  crc8 (List.replicate 7 0x00#8) = 0x00#8 ∧ crc8 (List.replicate 7 0xFF#8) = 0x14#8

/-- ADDR_CHECK responds 0x01 exactly when crc8 of the bytes is 0x00 and changes nothing else (R157); what ADDR_COMPLETE answers
passes it (R156, derived). -/
def Obligations.AddrCheckResult : Prop :=
  (∀ (a : List Byte) (s : State), exec (.addrCheck a) s =
    .next { s with hostOut := s.hostOut ++ [if a.foldl crc8Byte 0x00#8 = 0x00#8 then 0x01#8 else 0x00#8] }) ∧
  ∀ (a : List Byte) (s t : State), a.length = 7 → exec (.addrComplete a) s = .next t →
    ∃ full : List Byte, full.length = 8 ∧ t.hostOut = s.hostOut ++ full ∧
      exec (.addrCheck full) t = .next { t with hostOut := t.hostOut ++ [0x01#8] }

/-- Every single-bit corruption of a CRC-valid address is detected (R157, derived). -/
def Obligations.SingleBitErrorsDetected : Prop :=
  ∀ (a : Rom) (k : Nat), k < 64 → addressValid (romBytes a) = true →
    addressValid (romBytes (a ^^^ (1#64 <<< k))) = false

/-! ## CRC-16 (43_crc16.md) -/

/-- The per-byte step in numbers: with c the XORed byte, shift right by 8, XOR 0xC001 when the parities of the nibbles of c differ,
then c shifted left 6 and c shifted left 7 (R172; that "the byte" of the shifts is c is conflict C7). Two clauses are marked derived by
the spec: that no bit is lost, which the equation in unbounded numbers says (R172), and the entries of ODDPARITY, which it spells out as
the parity of a nibble (R173). -/
def Obligations.CrcSixteenByteStep : Prop :=
  ∀ (crc : Word16) (b : Byte), ∃ c : Nat, c = b.toNat ^^^ crc.toNat % 256 ∧
    (crc16Byte crc b).toNat =
      crc.toNat / 256 ^^^
        (if (c.testBit 0 ^^ c.testBit 1 ^^ c.testBit 2 ^^ c.testBit 3) ≠
            (c.testBit 4 ^^ c.testBit 5 ^^ c.testBit 6 ^^ c.testBit 7) then 0xC001 else 0) ^^^
        c * 64 ^^^ c * 128

/-- The bitwise form: eight iterations of "x <- (x >> 1) XOR (x[0] ? 0xA001 : 0)" from crc XOR b (R174, derived). -/
def Obligations.CrcSixteenBitwiseForm : Prop :=
  ∀ (crc : Word16) (b : Byte), crc16Byte crc b =
    (fun x : Word16 => (x >>> 1) ^^^ (if x.getLsbD 0 then 0xA001#16 else 0x0000#16))^[8] (crc ^^^ b.setWidth 16)

/-- CRC16_BLOCK folds its bytes in order from the current value, without reseeding, and CRC16_READ returns the raw value low byte
first; nothing else changes (R178, R179). -/
def Obligations.CrcSixteenBlockAndRead : Prop :=
  encode .crc16Read = [0x33#8] ∧
  (∀ d : List Byte, encode (.crc16Block d) = 0x32#8 :: BitVec.ofNat 8 d.length :: d) ∧
  (∀ (d : List Byte) (s : State), exec (.crc16Block d) s = .next { s with crc16Acc := d.foldl crc16Byte s.crc16Acc } ∧
    d.foldl crc16Byte s.crc16Acc = crc16 d s.crc16Acc) ∧
  ∀ s : State, exec .crc16Read s = .next { s with
    hostOut := s.hostOut ++ [BitVec.ofNat 8 (s.crc16Acc.toNat % 256), BitVec.ofNat 8 (s.crc16Acc.toNat / 256)] }

/-- CRC16_SEED loads the 16-bit seed sent low byte first, CRC16_UPDATE folds one byte, and a CRC continues across blocks (R176, R177;
derived in part, decision D15). -/
def Obligations.CrcSixteenSeedAndUpdate : Prop :=
  (∀ (seed : Word16) (rest : List Byte),
    decode (0x30#8 :: BitVec.ofNat 8 (seed.toNat % 256) :: BitVec.ofNat 8 (seed.toNat / 256) :: rest) =
      .command (.crc16Seed seed) rest) ∧
  (∀ (seed : Word16) (s : State), exec (.crc16Seed seed) s = .next { s with crc16Acc := seed }) ∧
  (∀ (v : Byte) (s : State), exec (.crc16Update v) s = .next { s with crc16Acc := crc16Byte s.crc16Acc v } ∧
    (v.toNat = s.crc16Acc.toNat % 256 → exec (.crc16Update v) s = .next { s with crc16Acc := s.crc16Acc >>> 8 })) ∧
  ∀ (x y : List Byte) (seed : Word16), crc16 (x ++ y) seed = crc16 y (crc16 x seed)

/-- CRC16_APPEND responds with the inverted value, low byte first, and CRC16_CHECK with whether the raw value is 0xB001; neither
changes CRC16_ACC or anything else (R182, R183, R185; decision D15). -/
def Obligations.CrcSixteenAppendAndCheck : Prop :=
  (∀ s : State, exec .crc16Append s = .next { s with
    hostOut := s.hostOut ++
      [BitVec.ofNat 8 ((65535 - s.crc16Acc.toNat) % 256), BitVec.ofNat 8 ((65535 - s.crc16Acc.toNat) / 256)] }) ∧
  ∀ s : State, exec .crc16Check s =
    .next { s with hostOut := s.hostOut ++ [if s.crc16Acc.toNat = 0xB001 then 0x01#8 else 0x00#8] }

/-- A block sealed with its append-mode bytes leaves 0xB001 under the seed it was sealed with, whatever the block and the seed
(R184; the seeds other than 0 are marked derived). -/
def Obligations.CrcSixteenResidue : Prop :=
  ∀ (d : List Byte) (seed : Word16), crc16 (d ++ appendBytes (crc16 d seed)) seed = 0xB001#16

/-! ## ROM search (44_rom_search.md) -/

/-- SEARCH_INIT writes the four search registers and leaves PF; SEARCH_READ returns LAST_DISC and LAST_ROM and changes nothing; after
SEARCH_INIT it returns nine zero bytes (R220, R221; decisions D6, D13). -/
def Obligations.SearchInitAndRead : Prop :=
  (∀ s : State, exec .searchInit s =
    .next { s with lastDisc := 0#7, lastRom := 0#64, lrv := false, done := false }) ∧
  (∀ s : State, ∃ rom : List Byte, rom.length = 8 ∧
    (∀ i : Nat, i < 64 → (rom.getD (i / 8) 0x00#8).getLsbD (i % 8) = s.lastRom.getLsbD i) ∧
    exec .searchRead s = .next { s with hostOut := s.hostOut ++ (BitVec.ofNat 8 s.lastDisc.toNat :: rom) }) ∧
  ∀ s : State, s.Running → ∃ t : State, execAll [.searchInit, .searchRead] s = .next t ∧
    t.hostOut = s.hostOut ++ List.replicate 9 0x00#8

/-- A SEARCH_PASS whose reset reports no presence performs that one transaction, ends the traversal and reports BUS_FAULT with eight zero
bytes (R204, R212, R216, R301; decisions D6, D10, D17). -/
def Obligations.SearchPassWithoutPresence : Prop :=
  ∀ s : State, (bcReset s).1 = true → ∃ t : State, exec .searchPass s = .next t ∧
    t = { s with
      pf := true, lastDisc := 0#7, done := true, busLog := s.busLog ++ [.reset true],
      hostOut := s.hostOut ++ (0x01#8 :: List.replicate 9 0x00#8), bus := t.bus, freeNext := t.freeNext }

/-- A SEARCH_PASS whose reset reports presence: SEARCH-ROM, then for each bit index two reads and one write of the chosen branch, up to
the first `(1,1)`, which ends the pass with SEARCH_ABORT, or through all 64; then the address, its CRC verdict, and LAST_DISC the
largest position at which a collision was resolved to 1 (R203 to R211, R213 to R216; R209 is decision D27, R213 and R215 decision D10). -/
def Obligations.SearchPassWithPresence : Prop :=
  ∀ s : State, (bcReset s).1 = false → ∃ (t : State) (pairs : List (Bool × Bool)) (rom : Rom),
    exec .searchPass s = .next t ∧
    (∀ (i : Nat) (pair : Bool × Bool), pairs[i]? = some pair →
      BranchTaken s.lastDisc s.lastRom i pair (rom.getLsbD i)) ∧
    ((pairs.length < 64 ∧ t = { s with
        pf := false, lastDisc := 0#7, done := true,
        busLog := s.busLog ++ searchOpening ++ searchSlots rom 0 pairs ++ [.read true, .read true],
        hostOut := s.hostOut ++ (0x02#8 :: List.replicate 9 0x00#8), bus := t.bus, freeNext := t.freeNext }) ∨
     (pairs.length = 64 ∧ t = { s with
        pf := false, lastRom := rom, lrv := true, lastDisc := t.lastDisc, done := decide (t.lastDisc.toNat = 0),
        busLog := s.busLog ++ searchOpening ++ searchSlots rom 0 pairs,
        hostOut := s.hostOut ++ ((if crc8 (romBytes rom) = 0x00#8 then 0x00#8 else 0x03#8) :: romBytes rom ++
          [BitVec.ofNat 8 t.lastDisc.toNat]),
        bus := t.bus, freeNext := t.freeNext } ∧
      (t.lastDisc.toNat = 0 ∨ ∃ i, t.lastDisc.toNat = i + 1 ∧ pairs[i]? = some (false, false) ∧ rom.getLsbD i = true) ∧
      ∀ i : Nat, pairs[i]? = some (false, false) → rom.getLsbD i = true → i + 1 ≤ t.lastDisc.toNat))

/-- The bus side of a pass: unanimous reads decide the bit written, exactly one write follows the two reads of every bit index
that did not abort, and after a `(1,1)` there is no further slot (R207, R208, R210) and the response is SEARCH_ABORT with nine zero bytes
(R213, R216, R300; decisions D6, D10, D17). On the reference devices the write excludes those whose own bit differs (R210, R330;
decision D22). -/
def Obligations.SearchPassSlots : Prop :=
  (∀ s : State, ∃ (t : State) (pairs : List (Bool × Bool)) (rom : Rom) (tail : List Transaction),
    exec .searchPass s = .next t ∧
    (t.busLog = s.busLog ++ [.reset true] ∨
      (t.busLog = s.busLog ++ searchOpening ++ searchSlots rom 0 pairs ++ tail ∧
        (pairs.length = 64 ∧ tail = [] ∨
          pairs.length < 64 ∧ tail = [.read true, .read true] ∧ t.hostOut = s.hostOut ++ 0x02#8 :: List.replicate 9 0x00#8) ∧
        ∀ (i : Nat) (pair : Bool × Bool), pairs[i]? = some pair →
          pair ≠ (true, true) ∧ (pair = (false, true) → rom.getLsbD i = false) ∧
            (pair = (true, false) → rom.getLsbD i = true)))) ∧
  ∀ (population participating : List Rom) (i : Nat) (d : Bool), i + 1 < 64 →
    busOnWrite d (.devices population (.search i .write participating)) =
      .devices population (.search (i + 1) .bit (participating.filter fun a => a.getLsbD i = d))

/-- A pass that performs all 64 bits (201 transactions) reports its address whatever its CRC-8: OK exactly when crc8 over its eight
bytes is 0, which is when crc8 of bytes 0 to 6 is byte 7, and CHECKSUM_MISMATCH otherwise; either way the address becomes LAST_ROM
and CRC8_ACC is not touched (R214, R215). A failed pass reports the zero address and leaves LAST_ROM and LRV (R212, R213; decision D10).
The layout of the row and its status codes are R216 and R300 (decisions D6, D17), the count R360 (decision D21). -/
def Obligations.CompletedPassReportsAddress : Prop :=
  ∀ s : State, ∃ (t : State) (row : PassRow), exec .searchPass s = .next t ∧ t.hostOut = s.hostOut ++ row.bytes ∧
    row.disc = t.lastDisc ∧ t.crc8Acc = s.crc8Acc ∧
    (t.busLog.length = s.busLog.length + 201 → t.lastRom = row.rom ∧
      row.status = if crc8 (romBytes row.rom) = 0x00#8 then .ok else .checksumMismatch) ∧
    (row.status = .ok → t.busLog.length = s.busLog.length + 201 ∧ crc8 ((romBytes row.rom).take 7) = romByte row.rom 7) ∧
    (row.status = .checksumMismatch →
      t.busLog.length = s.busLog.length + 201 ∧ crc8 ((romBytes row.rom).take 7) ≠ romByte row.rom 7) ∧
    ((row.status = .busFault ∨ row.status = .searchAbort) → row.rom = 0#64 ∧ t.lastRom = s.lastRom ∧ t.lrv = s.lrv) ∧
    row.status ≠ .passLimit

/-- A pass from LAST_DISC = 0 is the first of a new traversal whatever LAST_ROM holds (R217, derived and decision D13). -/
def Obligations.FreshPassIgnoresLastRom : Prop :=
  ∀ (s t : State) (rom : Rom), s.lastDisc = 0#7 → exec .searchPass s = .next t →
    ∃ rom' : Rom, exec .searchPass { s with lastRom := rom } = .next { t with lastRom := rom' }

/-- SCAN is SEARCH_INIT and then SEARCH_PASS after SEARCH_PASS, at most MAX_PASSES of them, until one ends the traversal or fails; it
leaves the registers and the bus as those commands do, and responds with the status, the CRC-valid addresses and the
rejected ones in the order found (R225 to R228; decisions D6, D11, D12, D26). -/
def Obligations.ScanIsSteppedPasses : Prop :=
  ∀ s : State, s.Running → ∃ (t u : State) (rows : List PassRow) (last : PassRow),
    exec .scan s = .next t ∧ rows.length + 1 ≤ s.maxPasses.val ∧
    execAll (.searchInit :: List.replicate (rows.length + 1) .searchPass) s = .next u ∧
    u.hostOut = s.hostOut ++ (rows ++ [last]).flatMap PassRow.bytes ∧
    (∀ r ∈ rows, r.goesOn) ∧ (last.goesOn → rows.length + 1 = s.maxPasses.val) ∧
    t = { u with
      hostOut := s.hostOut ++ scanResponse
        (if last.goesOn then .passLimit else if last.status = .checksumMismatch then .ok else last.status)
        (((rows ++ [last]).filter fun r => r.status = .ok).map PassRow.rom)
        (((rows ++ [last]).filter fun r => r.status = .checksumMismatch).map PassRow.rom) }

/-- The SCAN response byte by byte: the status byte, V mod 256, V div 256, the V valid addresses, J mod 256, J div 256, the J rejected
addresses, each address byte 0 first (R226, R56, R52; decisions D6, D11). The status byte is 0x01 when the last pass reported no presence,
0x02 when it was aborted by a `(1,1)`, 0x04 when MAX_PASSES passes left a branch to visit, and 0x00 otherwise (R225, R227, R300;
decisions D11, D12, D17). There are at most MAX_PASSES addresses in all, so that both counts fit 16 bits; the valid ones are CRC-valid and
the rejected ones not. -/
def Obligations.ScanResponseBounds : Prop :=
  ∀ s : State, ∃ (t : State) (st : Status) (code : Byte) (valid rejected : List Rom), exec .scan s = .next t ∧
    t.hostOut = s.hostOut ++ scanResponse st valid rejected ∧
    scanResponse st valid rejected =
      code :: BitVec.ofNat 8 (valid.length % 256) :: BitVec.ofNat 8 (valid.length / 256) ::
        (valid.flatMap fun a => List.ofFn fun k : Fin 8 => BitVec.ofNat 8 (a.toNat / 256 ^ k.val)) ++
      BitVec.ofNat 8 (rejected.length % 256) :: BitVec.ofNat 8 (rejected.length / 256) ::
        (rejected.flatMap fun a => List.ofFn fun k : Fin 8 => BitVec.ofNat 8 (a.toNat / 256 ^ k.val)) ∧
    ((code = 0x00#8 ∧ st = .ok ∧ t.pf = false ∧ t.lastDisc = 0#7 ∧ t.busLog.getLast? ≠ some (.read true)) ∨
      (code = 0x01#8 ∧ st = .busFault ∧ t.pf = true ∧ t.busLog.getLast? = some (.reset true)) ∨
      (code = 0x02#8 ∧ st = .searchAbort ∧ t.pf = false ∧ t.busLog.getLast? = some (.read true)) ∨
      (code = 0x04#8 ∧ st = .passLimit ∧ t.pf = false ∧ t.lastDisc ≠ 0#7 ∧
        valid.length + rejected.length = s.maxPasses.val)) ∧
    valid.length + rejected.length ≤ s.maxPasses.val ∧ valid.length + rejected.length < 65536 ∧
    (∀ a ∈ valid, crc8 (romBytes a) = 0x00#8) ∧ (∀ a ∈ rejected, crc8 (romBytes a) ≠ 0x00#8)

/-- A SCAN whose first reset reports no presence answers "no devices": status 0x01 and no address (R225, R301; decisions D11, D17). -/
def Obligations.ScanWithoutPresence : Prop :=
  ∀ s : State, (bcReset s).1 = true → ∃ t : State, exec .scan s = .next t ∧
    t = { s with
      pf := true, lastDisc := 0#7, lastRom := 0#64, lrv := false, done := true, busLog := s.busLog ++ [.reset true],
      hostOut := s.hostOut ++ [0x01#8, 0x00#8, 0x00#8, 0x00#8, 0x00#8], bus := t.bus, freeNext := t.freeNext }

/-- With one device on the reference bus a pass from any search state meets no collision: at every bit index the two reads are the
device's bit and its complement, and the bit written is the device's. It returns that device's address, leaves
LAST_DISC = 0 and DONE = 1, and takes 201 transactions (R219 (4), R330, R360; derived, decisions D21, D22). -/
def Obligations.SingleDevicePass : Prop :=
  ∀ (s : State) (a : Rom) (phase : DevicePhase), s.bus = .devices [a] phase → ∃ t : State,
    exec .searchPass s = .next t ∧
    t.busLog = s.busLog ++ searchOpening ++
      searchSlots a 0 (List.ofFn fun i : Fin 64 => (a.getLsbD i, !a.getLsbD i)) ∧
    t.busLog.length = s.busLog.length + 201 ∧
    t.lastRom = a ∧ t.lastDisc = 0#7 ∧ t.done = true ∧ t.lrv = true ∧ t.pf = false ∧
    t.hostOut = s.hostOut ++ ((if crc8 (romBytes a) = 0x00#8 then 0x00#8 else 0x03#8) :: romBytes a ++ [0x00#8])

/-- On the reference bus with any devices, a pass from ANY search state completes and returns the address of one of them: the
engine never aborts and never makes an address up (R203, R330; a consequence of derived R219's premises). -/
def Obligations.PassReturnsADevice : Prop :=
  ∀ (s : State) (population : List Rom) (phase : DevicePhase), s.bus = .devices population phase → population ≠ [] →
    ∃ t : State, exec .searchPass s = .next t ∧ t.lastRom ∈ population ∧ t.lrv = true ∧ t.pf = false ∧
      t.busLog.length = s.busLog.length + 201

/-- On a stable reference bus SCAN enumerates the population: every device exactly once, in decreasing lexicographic order of bit
sequences, in as many passes as devices, the CRC-invalid ones in the rejected list; N resets, 128·N reads, 72·N writes
(R219, R225, R226, R330, R360; derived, decisions D11, D27). -/
def Obligations.ScanEnumeratesPopulation : Prop :=
  ∀ (s : State) (population : List Rom) (phase : DevicePhase), s.bus = .devices population phase → population ≠ [] →
    population.Nodup → population.length ≤ s.maxPasses.val →
    ∃ (t : State) (found : List Rom) (new : List Transaction), exec .scan s = .next t ∧
      found.Perm population ∧ found.Pairwise foundBefore ∧
      t.hostOut = s.hostOut ++ scanResponse .ok (found.filter fun a => crc8 (romBytes a) = 0x00#8)
        (found.filter fun a => crc8 (romBytes a) ≠ 0x00#8) ∧
      t.lastDisc = 0#7 ∧ t.done = true ∧ t.lrv = true ∧ t.pf = false ∧ found.getLast? = some t.lastRom ∧
      t.busLog = s.busLog ++ new ∧
      slotCounts new = (population.length, 128 * population.length, 72 * population.length)

/-! ## System and pseudo-instructions -/

/-- STATUS_READ responds with PF, DONE and LRV in bits 0, 1 and 2 and zeros above them, and clears nothing (R30, R250; decision D2). -/
def Obligations.StatusReadResult : Prop :=
  ∀ s : State, ∃ v : Byte, v.getLsbD 0 = s.pf ∧ v.getLsbD 1 = s.done ∧ v.getLsbD 2 = s.lrv ∧ v.toNat < 8 ∧
    exec .statusRead s = .next { s with hostOut := s.hostOut ++ [v] }

/-- SELECT and SKIP on the bus: reset, the ROM command least significant bit first, and for SELECT the address bytes, byte 0 first; the
response is the one BUS_RESET byte (R81, R95, R96; decision D28). -/
def Obligations.SelectAndSkipSequences : Prop :=
  ∀ (s : State) (a : List Byte), s.Running → ∃ (t u : State) (p q : Bool),
    execPseudo (.select a) s = .next t ∧ execPseudo .skip s = .next u ∧
    t.hostOut = s.hostOut ++ [if p then 0x01#8 else 0x00#8] ∧ u.hostOut = s.hostOut ++ [if q then 0x01#8 else 0x00#8] ∧
    t.busLog = s.busLog ++ .reset p :: (byteBits 0x55#8 ++ a.flatMap byteBits).map .write ∧
    u.busLog = s.busLog ++ .reset q :: (byteBits 0xCC#8).map .write

/-- The CRC pseudo-instructions respond with crc8(d), crc16(d, seed) low byte first, and the append-mode bytes; a block sealed by
CRC16_SEAL passes CRC16_VERIFY (R81, R140, R170, R182, R184; decision D28). -/
def Obligations.CrcPseudoResponses : Prop :=
  ∀ (s : State) (d : List Byte) (seed : Word16), s.Running → ∃ t u v w : State,
    execPseudo (.crc8 d) s = .next t ∧ t.hostOut = s.hostOut ++ [crc8 d] ∧
    execPseudo (.crc16 d seed) s = .next u ∧ u.hostOut = s.hostOut ++ wordBytes (crc16 d seed) ∧
    execPseudo (.crc16Seal d) s = .next v ∧ v.hostOut = s.hostOut ++ appendBytes (crc16 d 0x0000#16) ∧
    execPseudo (.crc16Verify (d ++ appendBytes (crc16 d 0x0000#16))) s = .next w ∧ w.hostOut = s.hostOut ++ [0x01#8]
end

