-- ==== Sys2Proof/Laws/Assembler.lean ====
section
/-! SUPPORT. What the assembler's readers answer, said once (30_encoding.md R80). -/

namespace Sys2Proof.Machine

/-- A list fits when each of its numbers is a byte, and then nothing of a number is lost. -/
theorem fitBytes_eq (ns : List Nat) :
    fitBytes ns = if ∀ n ∈ ns, n ≤ 255 then some (ns.map (BitVec.ofNat 8)) else none := by
  induction ns with
  | nil => rfl
  | cons n ns ih =>
    simp only [fitBytes, ih]
    by_cases h : n ≤ 255 <;> by_cases hs : ∀ m ∈ ns, m ≤ 255 <;> simp [h, hs]

/-- Text that is digits of the base only is read to its end, most significant digit first. -/
theorem readDigits_eq_foldl (base : Nat) (value : Char → Nat) (cs : List Char)
    (h : ∀ c ∈ cs, digitValue c = some (value c) ∧ value c < base) (acc : Nat) :
    readDigits base acc cs = (cs.foldl (fun v c => v * base + value c) acc, []) := by
  induction cs generalizing acc with
  | nil => rfl
  | cons c cs ih =>
    obtain ⟨hc, hlt⟩ := h c (by simp)
    simp [readDigits, hc, hlt, ih fun d hd => h d (by simp [hd])]

end Sys2Proof.Machine
end

