-- ==== Sys2Proof/Laws/State.lean ====
section
/-! SUPPORT. What each state update does to each field: one lemma per field, true by unfolding. -/

namespace Sys2Proof.Machine

/-! ## respond -/

@[simp] theorem respond_crc8Acc (bs : List Byte) (s : State) : (respond bs s).crc8Acc = s.crc8Acc := rfl
@[simp] theorem respond_crc16Acc (bs : List Byte) (s : State) : (respond bs s).crc16Acc = s.crc16Acc := rfl
@[simp] theorem respond_lastDisc (bs : List Byte) (s : State) : (respond bs s).lastDisc = s.lastDisc := rfl
@[simp] theorem respond_lastRom (bs : List Byte) (s : State) : (respond bs s).lastRom = s.lastRom := rfl
@[simp] theorem respond_lrv (bs : List Byte) (s : State) : (respond bs s).lrv = s.lrv := rfl
@[simp] theorem respond_done (bs : List Byte) (s : State) : (respond bs s).done = s.done := rfl
@[simp] theorem respond_pf (bs : List Byte) (s : State) : (respond bs s).pf = s.pf := rfl
@[simp] theorem respond_runState (bs : List Byte) (s : State) : (respond bs s).runState = s.runState := rfl
@[simp] theorem respond_decoder (bs : List Byte) (s : State) : (respond bs s).decoder = s.decoder := rfl
@[simp] theorem respond_hostIn (bs : List Byte) (s : State) : (respond bs s).hostIn = s.hostIn := rfl
@[simp] theorem respond_hostOut (bs : List Byte) (s : State) : (respond bs s).hostOut = s.hostOut ++ bs := rfl
@[simp] theorem respond_bus (bs : List Byte) (s : State) : (respond bs s).bus = s.bus := rfl
@[simp] theorem respond_busLog (bs : List Byte) (s : State) : (respond bs s).busLog = s.busLog := rfl
@[simp] theorem respond_freeNext (bs : List Byte) (s : State) : (respond bs s).freeNext = s.freeNext := rfl
@[simp] theorem respond_maxPasses (bs : List Byte) (s : State) : (respond bs s).maxPasses = s.maxPasses := rfl

/-! ## raiseFault -/

@[simp] theorem raiseFault_crc8Acc (k : Fault) (s : State) : (raiseFault k s).crc8Acc = s.crc8Acc := rfl
@[simp] theorem raiseFault_crc16Acc (k : Fault) (s : State) : (raiseFault k s).crc16Acc = s.crc16Acc := rfl
@[simp] theorem raiseFault_lastDisc (k : Fault) (s : State) : (raiseFault k s).lastDisc = s.lastDisc := rfl
@[simp] theorem raiseFault_lastRom (k : Fault) (s : State) : (raiseFault k s).lastRom = s.lastRom := rfl
@[simp] theorem raiseFault_lrv (k : Fault) (s : State) : (raiseFault k s).lrv = s.lrv := rfl
@[simp] theorem raiseFault_done (k : Fault) (s : State) : (raiseFault k s).done = s.done := rfl
@[simp] theorem raiseFault_pf (k : Fault) (s : State) : (raiseFault k s).pf = s.pf := rfl
@[simp] theorem raiseFault_runState (k : Fault) (s : State) : (raiseFault k s).runState = .faulted k := rfl
@[simp] theorem raiseFault_decoder (k : Fault) (s : State) : (raiseFault k s).decoder = s.decoder := rfl
@[simp] theorem raiseFault_hostIn (k : Fault) (s : State) : (raiseFault k s).hostIn = s.hostIn := rfl
@[simp] theorem raiseFault_hostOut (k : Fault) (s : State) : (raiseFault k s).hostOut = s.hostOut := rfl
@[simp] theorem raiseFault_bus (k : Fault) (s : State) : (raiseFault k s).bus = s.bus := rfl
@[simp] theorem raiseFault_busLog (k : Fault) (s : State) : (raiseFault k s).busLog = s.busLog := rfl
@[simp] theorem raiseFault_freeNext (k : Fault) (s : State) : (raiseFault k s).freeNext = s.freeNext := rfl
@[simp] theorem raiseFault_maxPasses (k : Fault) (s : State) : (raiseFault k s).maxPasses = s.maxPasses := rfl

/-! ## hardwareReset -/

@[simp] theorem hardwareReset_crc8Acc (s : State) : (hardwareReset s).crc8Acc = 0x00#8 := rfl
@[simp] theorem hardwareReset_crc16Acc (s : State) : (hardwareReset s).crc16Acc = 0x0000#16 := rfl
@[simp] theorem hardwareReset_lastDisc (s : State) : (hardwareReset s).lastDisc = 0#7 := rfl
@[simp] theorem hardwareReset_lastRom (s : State) : (hardwareReset s).lastRom = 0#64 := rfl
@[simp] theorem hardwareReset_lrv (s : State) : (hardwareReset s).lrv = false := rfl
@[simp] theorem hardwareReset_done (s : State) : (hardwareReset s).done = false := rfl
@[simp] theorem hardwareReset_pf (s : State) : (hardwareReset s).pf = false := rfl
@[simp] theorem hardwareReset_runState (s : State) : (hardwareReset s).runState = .run := rfl
@[simp] theorem hardwareReset_decoder (s : State) : (hardwareReset s).decoder = [] := rfl
@[simp] theorem hardwareReset_hostIn (s : State) : (hardwareReset s).hostIn = s.hostIn := rfl
@[simp] theorem hardwareReset_hostOut (s : State) : (hardwareReset s).hostOut = s.hostOut := rfl
@[simp] theorem hardwareReset_bus (s : State) : (hardwareReset s).bus = s.bus := rfl
@[simp] theorem hardwareReset_busLog (s : State) : (hardwareReset s).busLog = s.busLog := rfl
@[simp] theorem hardwareReset_freeNext (s : State) : (hardwareReset s).freeNext = s.freeNext := rfl
@[simp] theorem hardwareReset_maxPasses (s : State) : (hardwareReset s).maxPasses = s.maxPasses := rfl

/-! ## bcReset -/

@[simp] theorem bcReset_crc8Acc (s : State) : (bcReset s).2.crc8Acc = s.crc8Acc := rfl
@[simp] theorem bcReset_crc16Acc (s : State) : (bcReset s).2.crc16Acc = s.crc16Acc := rfl
@[simp] theorem bcReset_lastDisc (s : State) : (bcReset s).2.lastDisc = s.lastDisc := rfl
@[simp] theorem bcReset_lastRom (s : State) : (bcReset s).2.lastRom = s.lastRom := rfl
@[simp] theorem bcReset_lrv (s : State) : (bcReset s).2.lrv = s.lrv := rfl
@[simp] theorem bcReset_done (s : State) : (bcReset s).2.done = s.done := rfl
@[simp] theorem bcReset_pf (s : State) : (bcReset s).2.pf = s.pf := rfl
@[simp] theorem bcReset_runState (s : State) : (bcReset s).2.runState = s.runState := rfl
@[simp] theorem bcReset_decoder (s : State) : (bcReset s).2.decoder = s.decoder := rfl
@[simp] theorem bcReset_hostIn (s : State) : (bcReset s).2.hostIn = s.hostIn := rfl
@[simp] theorem bcReset_hostOut (s : State) : (bcReset s).2.hostOut = s.hostOut := rfl
@[simp] theorem bcReset_bus (s : State) : (bcReset s).2.bus = (busOnReset s.bus).2 := rfl
@[simp] theorem bcReset_busLog (s : State) : (bcReset s).2.busLog = s.busLog ++ [.reset (bcReset s).1] := rfl
@[simp] theorem bcReset_freeNext (s : State) : (bcReset s).2.freeNext = freeAfter (busOnReset s.bus).1 s := rfl
@[simp] theorem bcReset_maxPasses (s : State) : (bcReset s).2.maxPasses = s.maxPasses := rfl

/-! ## bcReadBit -/

@[simp] theorem bcReadBit_crc8Acc (s : State) : (bcReadBit s).2.crc8Acc = s.crc8Acc := rfl
@[simp] theorem bcReadBit_crc16Acc (s : State) : (bcReadBit s).2.crc16Acc = s.crc16Acc := rfl
@[simp] theorem bcReadBit_lastDisc (s : State) : (bcReadBit s).2.lastDisc = s.lastDisc := rfl
@[simp] theorem bcReadBit_lastRom (s : State) : (bcReadBit s).2.lastRom = s.lastRom := rfl
@[simp] theorem bcReadBit_lrv (s : State) : (bcReadBit s).2.lrv = s.lrv := rfl
@[simp] theorem bcReadBit_done (s : State) : (bcReadBit s).2.done = s.done := rfl
@[simp] theorem bcReadBit_pf (s : State) : (bcReadBit s).2.pf = s.pf := rfl
@[simp] theorem bcReadBit_runState (s : State) : (bcReadBit s).2.runState = s.runState := rfl
@[simp] theorem bcReadBit_decoder (s : State) : (bcReadBit s).2.decoder = s.decoder := rfl
@[simp] theorem bcReadBit_hostIn (s : State) : (bcReadBit s).2.hostIn = s.hostIn := rfl
@[simp] theorem bcReadBit_hostOut (s : State) : (bcReadBit s).2.hostOut = s.hostOut := rfl
@[simp] theorem bcReadBit_bus (s : State) : (bcReadBit s).2.bus = (busOnRead s.bus).2 := rfl
@[simp] theorem bcReadBit_busLog (s : State) : (bcReadBit s).2.busLog = s.busLog ++ [.read (bcReadBit s).1] := rfl
@[simp] theorem bcReadBit_freeNext (s : State) : (bcReadBit s).2.freeNext = freeAfter (busOnRead s.bus).1 s := rfl
@[simp] theorem bcReadBit_maxPasses (s : State) : (bcReadBit s).2.maxPasses = s.maxPasses := rfl

/-! ## bcWriteBit -/

@[simp] theorem bcWriteBit_crc8Acc (b : Bool) (s : State) : (bcWriteBit b s).crc8Acc = s.crc8Acc := rfl
@[simp] theorem bcWriteBit_crc16Acc (b : Bool) (s : State) : (bcWriteBit b s).crc16Acc = s.crc16Acc := rfl
@[simp] theorem bcWriteBit_lastDisc (b : Bool) (s : State) : (bcWriteBit b s).lastDisc = s.lastDisc := rfl
@[simp] theorem bcWriteBit_lastRom (b : Bool) (s : State) : (bcWriteBit b s).lastRom = s.lastRom := rfl
@[simp] theorem bcWriteBit_lrv (b : Bool) (s : State) : (bcWriteBit b s).lrv = s.lrv := rfl
@[simp] theorem bcWriteBit_done (b : Bool) (s : State) : (bcWriteBit b s).done = s.done := rfl
@[simp] theorem bcWriteBit_pf (b : Bool) (s : State) : (bcWriteBit b s).pf = s.pf := rfl
@[simp] theorem bcWriteBit_runState (b : Bool) (s : State) : (bcWriteBit b s).runState = s.runState := rfl
@[simp] theorem bcWriteBit_decoder (b : Bool) (s : State) : (bcWriteBit b s).decoder = s.decoder := rfl
@[simp] theorem bcWriteBit_hostIn (b : Bool) (s : State) : (bcWriteBit b s).hostIn = s.hostIn := rfl
@[simp] theorem bcWriteBit_hostOut (b : Bool) (s : State) : (bcWriteBit b s).hostOut = s.hostOut := rfl
@[simp] theorem bcWriteBit_bus (b : Bool) (s : State) : (bcWriteBit b s).bus = busOnWrite b s.bus := rfl
@[simp] theorem bcWriteBit_busLog (b : Bool) (s : State) : (bcWriteBit b s).busLog = s.busLog ++ [.write b] := rfl
@[simp] theorem bcWriteBit_freeNext (b : Bool) (s : State) : (bcWriteBit b s).freeNext = s.freeNext := rfl
@[simp] theorem bcWriteBit_maxPasses (b : Bool) (s : State) : (bcWriteBit b s).maxPasses = s.maxPasses := rfl

/-! ## passReset -/

@[simp] theorem passReset_crc8Acc (s : State) : (passReset s).crc8Acc = s.crc8Acc := rfl
@[simp] theorem passReset_crc16Acc (s : State) : (passReset s).crc16Acc = s.crc16Acc := rfl
@[simp] theorem passReset_lastDisc (s : State) : (passReset s).lastDisc = s.lastDisc := rfl
@[simp] theorem passReset_lastRom (s : State) : (passReset s).lastRom = s.lastRom := rfl
@[simp] theorem passReset_lrv (s : State) : (passReset s).lrv = s.lrv := rfl
@[simp] theorem passReset_done (s : State) : (passReset s).done = s.done := rfl
@[simp] theorem passReset_pf (s : State) : (passReset s).pf = (bcReset s).1 := rfl
@[simp] theorem passReset_runState (s : State) : (passReset s).runState = s.runState := rfl
@[simp] theorem passReset_decoder (s : State) : (passReset s).decoder = s.decoder := rfl
@[simp] theorem passReset_hostIn (s : State) : (passReset s).hostIn = s.hostIn := rfl
@[simp] theorem passReset_hostOut (s : State) : (passReset s).hostOut = s.hostOut := rfl
@[simp] theorem passReset_bus (s : State) : (passReset s).bus = (busOnReset s.bus).2 := rfl
@[simp] theorem passReset_busLog (s : State) : (passReset s).busLog = s.busLog ++ [.reset (bcReset s).1] := rfl
@[simp] theorem passReset_freeNext (s : State) : (passReset s).freeNext = freeAfter (busOnReset s.bus).1 s := rfl
@[simp] theorem passReset_maxPasses (s : State) : (passReset s).maxPasses = s.maxPasses := rfl

/-! ## failPass -/

@[simp] theorem failPass_crc8Acc (s : State) : (failPass s).crc8Acc = s.crc8Acc := rfl
@[simp] theorem failPass_crc16Acc (s : State) : (failPass s).crc16Acc = s.crc16Acc := rfl
@[simp] theorem failPass_lastDisc (s : State) : (failPass s).lastDisc = 0#7 := rfl
@[simp] theorem failPass_lastRom (s : State) : (failPass s).lastRom = s.lastRom := rfl
@[simp] theorem failPass_lrv (s : State) : (failPass s).lrv = s.lrv := rfl
@[simp] theorem failPass_done (s : State) : (failPass s).done = true := rfl
@[simp] theorem failPass_pf (s : State) : (failPass s).pf = s.pf := rfl
@[simp] theorem failPass_runState (s : State) : (failPass s).runState = s.runState := rfl
@[simp] theorem failPass_decoder (s : State) : (failPass s).decoder = s.decoder := rfl
@[simp] theorem failPass_hostIn (s : State) : (failPass s).hostIn = s.hostIn := rfl
@[simp] theorem failPass_hostOut (s : State) : (failPass s).hostOut = s.hostOut := rfl
@[simp] theorem failPass_bus (s : State) : (failPass s).bus = s.bus := rfl
@[simp] theorem failPass_busLog (s : State) : (failPass s).busLog = s.busLog := rfl
@[simp] theorem failPass_freeNext (s : State) : (failPass s).freeNext = s.freeNext := rfl
@[simp] theorem failPass_maxPasses (s : State) : (failPass s).maxPasses = s.maxPasses := rfl

/-! ## completePass -/

@[simp] theorem completePass_crc8Acc (rom : Rom) (d : Disc) (s : State) : (completePass rom d s).crc8Acc = s.crc8Acc := rfl
@[simp] theorem completePass_crc16Acc (rom : Rom) (d : Disc) (s : State) : (completePass rom d s).crc16Acc = s.crc16Acc := rfl
@[simp] theorem completePass_lastDisc (rom : Rom) (d : Disc) (s : State) : (completePass rom d s).lastDisc = d := rfl
@[simp] theorem completePass_lastRom (rom : Rom) (d : Disc) (s : State) : (completePass rom d s).lastRom = rom := rfl
@[simp] theorem completePass_lrv (rom : Rom) (d : Disc) (s : State) : (completePass rom d s).lrv = true := rfl
@[simp] theorem completePass_done (rom : Rom) (d : Disc) (s : State) : (completePass rom d s).done = doneFlag d := rfl
@[simp] theorem completePass_pf (rom : Rom) (d : Disc) (s : State) : (completePass rom d s).pf = s.pf := rfl
@[simp] theorem completePass_runState (rom : Rom) (d : Disc) (s : State) : (completePass rom d s).runState = s.runState := rfl
@[simp] theorem completePass_decoder (rom : Rom) (d : Disc) (s : State) : (completePass rom d s).decoder = s.decoder := rfl
@[simp] theorem completePass_hostIn (rom : Rom) (d : Disc) (s : State) : (completePass rom d s).hostIn = s.hostIn := rfl
@[simp] theorem completePass_hostOut (rom : Rom) (d : Disc) (s : State) : (completePass rom d s).hostOut = s.hostOut := rfl
@[simp] theorem completePass_bus (rom : Rom) (d : Disc) (s : State) : (completePass rom d s).bus = s.bus := rfl
@[simp] theorem completePass_busLog (rom : Rom) (d : Disc) (s : State) : (completePass rom d s).busLog = s.busLog := rfl
@[simp] theorem completePass_freeNext (rom : Rom) (d : Disc) (s : State) : (completePass rom d s).freeNext = s.freeNext := rfl
@[simp] theorem completePass_maxPasses (rom : Rom) (d : Disc) (s : State) : (completePass rom d s).maxPasses = s.maxPasses := rfl

/-! ## clearSearch -/

@[simp] theorem clearSearch_crc8Acc (s : State) : (clearSearch s).crc8Acc = s.crc8Acc := rfl
@[simp] theorem clearSearch_crc16Acc (s : State) : (clearSearch s).crc16Acc = s.crc16Acc := rfl
@[simp] theorem clearSearch_lastDisc (s : State) : (clearSearch s).lastDisc = 0#7 := rfl
@[simp] theorem clearSearch_lastRom (s : State) : (clearSearch s).lastRom = 0#64 := rfl
@[simp] theorem clearSearch_lrv (s : State) : (clearSearch s).lrv = false := rfl
@[simp] theorem clearSearch_done (s : State) : (clearSearch s).done = false := rfl
@[simp] theorem clearSearch_pf (s : State) : (clearSearch s).pf = s.pf := rfl
@[simp] theorem clearSearch_runState (s : State) : (clearSearch s).runState = s.runState := rfl
@[simp] theorem clearSearch_decoder (s : State) : (clearSearch s).decoder = s.decoder := rfl
@[simp] theorem clearSearch_hostIn (s : State) : (clearSearch s).hostIn = s.hostIn := rfl
@[simp] theorem clearSearch_hostOut (s : State) : (clearSearch s).hostOut = s.hostOut := rfl
@[simp] theorem clearSearch_bus (s : State) : (clearSearch s).bus = s.bus := rfl
@[simp] theorem clearSearch_busLog (s : State) : (clearSearch s).busLog = s.busLog := rfl
@[simp] theorem clearSearch_freeNext (s : State) : (clearSearch s).freeNext = s.freeNext := rfl
@[simp] theorem clearSearch_maxPasses (s : State) : (clearSearch s).maxPasses = s.maxPasses := rfl

/-! ## offerBytes -/

@[simp] theorem offerBytes_crc8Acc (bs : List Byte) (s : State) : (offerBytes bs s).crc8Acc = s.crc8Acc := rfl
@[simp] theorem offerBytes_crc16Acc (bs : List Byte) (s : State) : (offerBytes bs s).crc16Acc = s.crc16Acc := rfl
@[simp] theorem offerBytes_lastDisc (bs : List Byte) (s : State) : (offerBytes bs s).lastDisc = s.lastDisc := rfl
@[simp] theorem offerBytes_lastRom (bs : List Byte) (s : State) : (offerBytes bs s).lastRom = s.lastRom := rfl
@[simp] theorem offerBytes_lrv (bs : List Byte) (s : State) : (offerBytes bs s).lrv = s.lrv := rfl
@[simp] theorem offerBytes_done (bs : List Byte) (s : State) : (offerBytes bs s).done = s.done := rfl
@[simp] theorem offerBytes_pf (bs : List Byte) (s : State) : (offerBytes bs s).pf = s.pf := rfl
@[simp] theorem offerBytes_runState (bs : List Byte) (s : State) : (offerBytes bs s).runState = .run := rfl
@[simp] theorem offerBytes_decoder (bs : List Byte) (s : State) : (offerBytes bs s).decoder = [] := rfl
@[simp] theorem offerBytes_hostIn (bs : List Byte) (s : State) : (offerBytes bs s).hostIn = portBytes bs := rfl
@[simp] theorem offerBytes_hostOut (bs : List Byte) (s : State) : (offerBytes bs s).hostOut = s.hostOut := rfl
@[simp] theorem offerBytes_bus (bs : List Byte) (s : State) : (offerBytes bs s).bus = s.bus := rfl
@[simp] theorem offerBytes_busLog (bs : List Byte) (s : State) : (offerBytes bs s).busLog = s.busLog := rfl
@[simp] theorem offerBytes_freeNext (bs : List Byte) (s : State) : (offerBytes bs s).freeNext = s.freeNext := rfl
@[simp] theorem offerBytes_maxPasses (bs : List Byte) (s : State) : (offerBytes bs s).maxPasses = s.maxPasses := rfl

/-! ## A hardware reset is the state after reset, but for the ports and the model's own fields -/

theorem hardwareReset_eq (s : State) : hardwareReset s = { State.reset with
    hostIn := s.hostIn, hostOut := s.hostOut, bus := s.bus, busLog := s.busLog, freeNext := s.freeNext,
    maxPasses := s.maxPasses } := rfl

end Sys2Proof.Machine
end

