-- ==== Sys2Proof/Laws/Bus.lean ====
section
/-! SUPPORT. What the shared bus operations do, said once: only the bus side of the state changes, the history grows by the
transactions made, and it agrees with the environment. -/

namespace Sys2Proof.Machine

/-! ## Histories -/

theorem busAfter_append (b : Bus) (xs ys : List Transaction) :
    busAfter b (xs ++ ys) = busAfter (busAfter b xs) ys := by
  induction xs generalizing b with
  | nil => rfl
  | cons x xs ih => cases x <;> exact ih _

theorem agreesWith_append (b : Bus) (xs ys : List Transaction) :
    agreesWith b (xs ++ ys) ↔ agreesWith b xs ∧ agreesWith (busAfter b xs) ys := by
  induction xs generalizing b with
  | nil => simp [agreesWith, busAfter]
  | cons x xs ih => cases x <;> simp [agreesWith, busAfter, ih, and_assoc]

theorem slotCounts_append (xs ys : List Transaction) :
    slotCounts (xs ++ ys) = ((slotCounts xs).1 + (slotCounts ys).1, (slotCounts xs).2.1 + (slotCounts ys).2.1,
      (slotCounts xs).2.2 + (slotCounts ys).2.2) := by
  induction xs with
  | nil => simp [slotCounts]
  | cons x xs ih => cases x <;> simp [slotCounts, ih] <;> omega

theorem slotCounts_reads (bits : List Bool) : slotCounts (bits.map .read) = (0, bits.length, 0) := by
  induction bits with
  | nil => rfl
  | cons b bits ih => simp [slotCounts, ih]

theorem slotCounts_writes (bits : List Bool) : slotCounts (bits.map .write) = (0, 0, bits.length) := by
  induction bits with
  | nil => rfl
  | cons b bits ih => simp [slotCounts, ih]

/-- `t` is `s` after the transactions `new`: nothing but the bus side differs, the history grew by them, and every answer
is the environment's where it fixes one. -/
structure BusRun (s : State) (new : List Transaction) (t : State) : Prop where
  /-- registers, decoder, ports and MAX_PASSES are as before -/
  only : OnlyBusDiffers s t
  /-- the history grows by exactly these transactions -/
  log : t.busLog = s.busLog ++ new
  /-- the answers are the environment's -/
  agrees : agreesWith s.bus new
  /-- the environment has seen exactly these transactions -/
  bus : t.bus = busAfter s.bus new

theorem BusRun.refl (s : State) : BusRun s [] s := ⟨rfl, by simp, trivial, rfl⟩

theorem BusRun.trans {s t u : State} {xs ys : List Transaction} (h : BusRun s xs t) (k : BusRun t ys u) :
    BusRun s (xs ++ ys) u where
  only := by
    have h1 := h.only
    have k1 := k.only
    rw [k1, h1]
  log := by rw [k.log, h.log, List.append_assoc]
  agrees := (agreesWith_append _ _ _).2 ⟨h.agrees, h.bus ▸ k.agrees⟩
  bus := by rw [k.bus, h.bus, busAfter_append]

/-- A transaction answers what the environment fixes. -/
theorem answerBit_agrees (a : Option Bool) (s : State) : a.getD (answerBit a s) = answerBit a s := by
  cases a <;> rfl

theorem bcReset_busRun (s : State) : BusRun s [.reset (bcReset s).1] (bcReset s).2 :=
  ⟨rfl, rfl, ⟨answerBit_agrees _ s, trivial⟩, rfl⟩

theorem bcReadBit_busRun (s : State) : BusRun s [.read (bcReadBit s).1] (bcReadBit s).2 :=
  ⟨rfl, rfl, ⟨answerBit_agrees _ s, trivial⟩, rfl⟩

theorem bcWriteBit_busRun (b : Bool) (s : State) : BusRun s [.write b] (bcWriteBit b s) :=
  ⟨rfl, rfl, trivial, rfl⟩

/-! ## Writing -/

theorem writeBits_append (xs ys : List Bool) (s : State) : writeBits (xs ++ ys) s = writeBits ys (writeBits xs s) := by
  induction xs generalizing s with
  | nil => rfl
  | cons x xs ih => exact ih _

/-- The one lemma of `writeBits`. -/
theorem writeBits_eq (bits : List Bool) (s : State) : writeBits bits s = { s with
    bus := bits.foldl (fun e b => busOnWrite b e) s.bus, busLog := s.busLog ++ bits.map .write } := by
  induction bits generalizing s with
  | nil => simp [writeBits]
  | cons b bits ih => simp [writeBits, ih, bcWriteBit]

theorem writeBits_busRun (bits : List Bool) (s : State) : BusRun s (bits.map .write) (writeBits bits s) := by
  induction bits generalizing s with
  | nil => exact BusRun.refl s
  | cons b bits ih => exact (bcWriteBit_busRun b s).trans (ih _)

theorem writeByteBits_busRun (v : Byte) (s : State) : BusRun s ((byteBits v).map .write) (writeByteBits v s) :=
  writeBits_busRun _ s

/-- A block is the bits of its bytes, one after the other. -/
theorem writeBlockBits_eq_writeBits (d : List Byte) (s : State) :
    writeBlockBits d s = writeBits (d.flatMap byteBits) s := by
  induction d generalizing s with
  | nil => rfl
  | cons v d ih => simp [writeBlockBits, ih, writeBits_append, writeByteBits]

theorem writeBlockBits_busRun (d : List Byte) (s : State) :
    BusRun s ((d.flatMap byteBits).map .write) (writeBlockBits d s) :=
  writeBlockBits_eq_writeBits d s ▸ writeBits_busRun _ s

/-! ## Reading -/

/-- The bits of a byte built from eight bits, first one lowest. -/
theorem byteBits_of_bits (b0 b1 b2 b3 b4 b5 b6 b7 : Bool) :
    byteBits (0x00#8 ||| (bitByte b0 <<< 0) ||| (bitByte b1 <<< 1) ||| (bitByte b2 <<< 2) ||| (bitByte b3 <<< 3) |||
      (bitByte b4 <<< 4) ||| (bitByte b5 <<< 5) ||| (bitByte b6 <<< 6) ||| (bitByte b7 <<< 7)) =
      [b0, b1, b2, b3, b4, b5, b6, b7] := by
  revert b0 b1 b2 b3 b4 b5 b6 b7; decide

/-- The one lemma of `readByteBits`: eight read slots whose bits are the byte's, least significant first. -/
theorem readByteBits_busRun (s : State) :
    BusRun s ((byteBits (readByteBits s).1).map .read) (readByteBits s).2 := by
  have h0 := bcReadBit_busRun s
  have h1 := h0.trans (bcReadBit_busRun _)
  have h2 := h1.trans (bcReadBit_busRun _)
  have h3 := h2.trans (bcReadBit_busRun _)
  have h4 := h3.trans (bcReadBit_busRun _)
  have h5 := h4.trans (bcReadBit_busRun _)
  have h6 := h5.trans (bcReadBit_busRun _)
  have h7 := h6.trans (bcReadBit_busRun _)
  simpa only [readByteBits, readBitsFrom, byteBits_of_bits, List.map, List.append_assoc, List.cons_append,
    List.nil_append, Nat.zero_add, Nat.reduceAdd] using h7

/-- The one lemma of `readBlockBits`. -/
theorem readBlockBits_busRun (n : Nat) (s : State) :
    BusRun s (((readBlockBits n s).1.flatMap byteBits).map .read) (readBlockBits n s).2 := by
  induction n generalizing s with
  | zero => exact BusRun.refl s
  | succ n ih => simpa [readBlockBits] using (readByteBits_busRun s).trans (ih _)

@[simp] theorem readBlockBits_length (n : Nat) (s : State) : (readBlockBits n s).1.length = n := by
  induction n generalizing s with
  | zero => rfl
  | succ n ih => simp [readBlockBits, ih]

@[simp] theorem byteBits_length (v : Byte) : (byteBits v).length = 8 := rfl

end Sys2Proof.Machine
end

