-- ==== Sys2Proof/Laws/Checksum.lean ====
section
/-! SUPPORT. The folds of the ChecksumEngine and the algebra of one byte. -/

namespace Sys2Proof.Machine

theorem crc8From_append (acc : Byte) (xs ys : List Byte) :
    crc8From acc (xs ++ ys) = crc8From (crc8From acc xs) ys := by
  induction xs generalizing acc with
  | nil => rfl
  | cons x xs ih => exact ih _

@[simp] theorem crc8From_eq_foldl (acc : Byte) (xs : List Byte) : crc8From acc xs = xs.foldl crc8Byte acc := by
  induction xs generalizing acc with
  | nil => rfl
  | cons x xs ih => exact ih _

/-- A byte equal to the accumulator leaves 0 (42_crc8.md R146). -/
theorem crc8Byte_self (x : Byte) : crc8Byte x x = 0x00#8 := by
  simp [crc8Byte, crc8Iterations, crc8Iteration]

@[simp] theorem crc16_eq_foldl (xs : List Byte) (seed : Word16) : crc16 xs seed = xs.foldl crc16Byte seed := by
  induction xs generalizing seed with
  | nil => rfl
  | cons x xs ih => exact ih _

end Sys2Proof.Machine
end

