-- ==== Sys2Proof/Laws/Decode.lean ====
section
/-! SUPPORT. The formats one by one: what each format's decoder makes of the bytes (30_encoding.md R71, R73). -/

namespace Sys2Proof

open Machine

@[simp] theorem wordOfBytes_low_high (w : Word16) : wordOfBytes (lowByte w) (highByte w) = w := by
  apply BitVec.eq_of_getLsbD_eq
  intro i hi
  have h : i - 8 < 8 := by omega
  have e : ¬ i < 8 → 8 + (i - 8) = i := by omega
  by_cases hl : i < 8 <;> simp [wordOfBytes, lowByte, highByte, hi, hl, h]
  simp [e hl, BitVec.getLsbD_eq_getElem hi]

@[simp] theorem lowByte_wordOfBytes (lo hi : Byte) : lowByte (wordOfBytes lo hi) = lo := by
  apply BitVec.eq_of_getLsbD_eq
  intro i h
  have h16 : i < 16 := by omega
  simp [wordOfBytes, lowByte, h, h16]

@[simp] theorem highByte_wordOfBytes (lo hi : Byte) : highByte (wordOfBytes lo hi) = hi := by
  apply BitVec.eq_of_getLsbD_eq
  intro i h
  have h16 : 8 + i < 16 := by omega
  simp [wordOfBytes, highByte, h, h16]

/-- A fixed number of bytes is read back with what follows. -/
theorem decodeBytes_of_length (f : List Byte → Instr) (d rest : List Byte) :
    decodeBytes d.length f (d ++ rest) = .command (f d) rest := by
  simp [decodeBytes]

/-- A count byte is read back when the count fits it. -/
theorem toNat_ofNat_count {n : Nat} (h : n ≤ 255) : (BitVec.ofNat 8 n).toNat = n := by
  rw [BitVec.toNat_ofNat]
  omega

/-- Count and data are read back with what follows (R72). -/
theorem decodeNData_of_length (f : List Byte → Instr) (d rest : List Byte) (h : d.length ≤ 255) :
    decodeNData f (nDataBytes d ++ rest) = .command (f d) rest := by
  simp only [nDataBytes, List.cons_append, decodeNData, toNat_ofNat_count h, decodeBytes_of_length]

/-- Too few bytes of a fixed number wait. -/
theorem decodeBytes_incomplete (k : Nat) (f : List Byte → Instr) (bs : List Byte) :
    decodeBytes k f bs = .incomplete ↔ bs.length < k := by
  unfold decodeBytes
  split <;> simp <;> omega

end Sys2Proof
end

