-- ==== Sys2Proof/Laws/PerInstr.lean ====
section
/-! SUPPORT. Statements made command by command: the length of each command on the wire (30_encoding.md R75). -/

namespace Sys2Proof.Laws.WireLength

/-- How many operand bytes the format has, for these operands (R71, and the length column of R75). -/
def operandCount : Instr → Nat
  | .bitWrite _ | .byteWrite _ | .blockRead _ | .crc8Update _ | .crc16Update _ => 1
  | .blockWrite d | .crc8Block d | .crc16Block d => 1 + d.length
  | .addrComplete _ => 7
  | .addrCheck _ => 8
  | .crc16Seed _ => 2
  | .busReset | .bitRead | .byteRead | .crc8Clear | .crc8Read | .crc16Read | .crc16Append | .crc16Check => 0
  | .searchInit | .searchPass | .scan | .searchRead | .statusRead => 0

/-- A command whose operands fit its format is its opcode and the operand bytes of the format. -/
def Statement (i : Instr) : Prop := i.fitsFormat = true → (encode i).length = 1 + operandCount i

theorem busReset : Statement .busReset := fun _ => rfl
theorem bitRead : Statement .bitRead := fun _ => rfl
theorem bitWrite (b : Byte) : Statement (.bitWrite b) := fun _ => rfl
theorem byteRead : Statement .byteRead := fun _ => rfl
theorem byteWrite (v : Byte) : Statement (.byteWrite v) := fun _ => rfl
theorem blockRead (n : Nat) : Statement (.blockRead n) := fun _ => rfl
theorem blockWrite (d : List Byte) : Statement (.blockWrite d) := fun _ => by
  simp [encode, Instr.operandBytes, nDataBytes, operandCount]; omega
theorem crc8Clear : Statement .crc8Clear := fun _ => rfl
theorem crc8Update (v : Byte) : Statement (.crc8Update v) := fun _ => rfl
theorem crc8Block (d : List Byte) : Statement (.crc8Block d) := fun _ => by
  simp [encode, Instr.operandBytes, nDataBytes, operandCount]; omega
theorem crc8Read : Statement .crc8Read := fun _ => rfl
theorem addrComplete (a : List Byte) : Statement (.addrComplete a) := fun h => by
  simp_all [encode, Instr.operandBytes, Instr.fitsFormat, operandCount]
theorem addrCheck (a : List Byte) : Statement (.addrCheck a) := fun h => by
  simp_all [encode, Instr.operandBytes, Instr.fitsFormat, operandCount]
theorem crc16Seed (seed : Word16) : Statement (.crc16Seed seed) := fun _ => rfl
theorem crc16Update (v : Byte) : Statement (.crc16Update v) := fun _ => rfl
theorem crc16Block (d : List Byte) : Statement (.crc16Block d) := fun _ => by
  simp [encode, Instr.operandBytes, nDataBytes, operandCount]; omega
theorem crc16Read : Statement .crc16Read := fun _ => rfl
theorem crc16Append : Statement .crc16Append := fun _ => rfl
theorem crc16Check : Statement .crc16Check := fun _ => rfl
theorem searchInit : Statement .searchInit := fun _ => rfl
theorem searchPass : Statement .searchPass := fun _ => rfl
theorem scan : Statement .scan := fun _ => rfl
theorem searchRead : Statement .searchRead := fun _ => rfl
theorem statusRead : Statement .statusRead := fun _ => rfl

end Sys2Proof.Laws.WireLength
end

