-- ==== Sys2Proof/Laws/Search.lean ====
section
/-! SUPPORT. What a pass and a scan can do, said once. -/

namespace Sys2Proof.Machine

/-- The loop of a pass only performs bus transactions. -/
theorem searchBits_busRun (n i : Nat) (rom : Rom) (d : Disc) (s : State) :
    ∃ new, BusRun s new (searchBits n i rom d s).2 := by
  induction n generalizing i rom d s with
  | zero => exact ⟨[], BusRun.refl s⟩
  | succ n ih =>
    have h := (bcReadBit_busRun s).trans (bcReadBit_busRun (bcReadBit s).2)
    simp only [searchBits]
    split
    · exact ⟨_, h⟩
    · rename_i b d' _
      obtain ⟨new, k⟩ := ih (i + 1) (setRomBit rom i b) d' (bcWriteBit b (bcReadBit (bcReadBit s).2).2)
      exact ⟨_, (h.trans (bcWriteBit_busRun b _)).trans k⟩

/-- The three ways a pass ends (44_rom_search.md R212, R213, R215): `u` is the state after its transactions. -/
theorem pass_cases (s : State) :
    ((bcReset s).1 = true ∧ runPass s = ⟨.busFault, 0#64, failPass (passReset s)⟩) ∨
    ((bcReset s).1 = false ∧ ∃ (new : List Transaction) (u : State), BusRun (passReset s) new u ∧
      (runPass s = ⟨.searchAbort, 0#64, failPass u⟩ ∨
        ∃ (rom : Rom) (d : Disc), runPass s = ⟨romStatus rom, rom, completePass rom d u⟩)) := by
  cases hp : (bcReset s).1 with
  | true => exact .inl ⟨rfl, by simp [runPass, hp]⟩
  | false =>
    refine .inr ⟨rfl, ?_⟩
    obtain ⟨new, k⟩ := searchBits_busRun 64 0 0#64 0#7 (writeByteBits romSearchCommand (passReset s))
    refine ⟨_, _, (writeByteBits_busRun romSearchCommand (passReset s)).trans k, ?_⟩
    simp only [runPass, hp, Bool.false_eq_true, if_false, finishPass]
    split
    · exact .inl rfl
    · exact .inr ⟨_, _, rfl⟩

/-- The status of a completed pass is OK or CHECKSUM_MISMATCH. -/
theorem romStatus_cases (rom : Rom) :
    (addressValid (romBytes rom) = true ∧ romStatus rom = .ok) ∨
      (addressValid (romBytes rom) = false ∧ romStatus rom = .checksumMismatch) := by
  unfold romStatus
  cases addressValid (romBytes rom) <;> simp

/-- What every pass keeps, a scan keeps. -/
theorem scanLoop_keeps (P : State → Prop) (hP : ∀ s, P s → P (runPass s).state) (n : Nat) (valid rejected : List Rom)
    (s : State) (hs : P s) : P (scanLoop n valid rejected s).state := by
  induction n generalizing valid rejected s with
  | zero => exact hs
  | succ n ih =>
    have h := hP s hs
    simp only [scanLoop]
    split <;> try exact h
    all_goals
      split
      · exact h
      · exact ih _ _ _ h

/-- A pass touches neither the CRC accumulators, RUNSTATE, the decoder, the ports nor MAX_PASSES. -/
theorem pass_keeps_rest (s : State) :
    (runPass s).state.crc8Acc = s.crc8Acc ∧ (runPass s).state.crc16Acc = s.crc16Acc ∧
    (runPass s).state.runState = s.runState ∧ (runPass s).state.decoder = s.decoder ∧ (runPass s).state.hostIn = s.hostIn ∧
    (runPass s).state.hostOut = s.hostOut ∧ (runPass s).state.maxPasses = s.maxPasses := by
  obtain ⟨-, h⟩ | ⟨-, new, u, hu, h | ⟨rom, d, h⟩⟩ := pass_cases s
  · simp [h]
  all_goals
    have hu := hu.only
    rw [h, hu]
    simp

/-- Bit index `i` takes the value, every other one keeps its own (44_rom_search.md R211). -/
theorem getLsbD_setRomBit (a : Rom) (i j : Nat) (d : Bool) (hi : i < 64) :
    (setRomBit a i d).getLsbD j = if j = i then d else a.getLsbD j := by
  unfold setRomBit
  by_cases h : j = i
  · subst h; cases d <;> simp [hi]
  · by_cases hj : j < 64
    · cases d <;> simp [h, hj] <;> omega
    · cases d <;> simp [h, BitVec.getLsbD_of_ge _ _ (by omega : 64 ≤ j)]

/-- Bit index 8k + j is bit j of byte k (20_memory.md R52). -/
theorem getLsbD_romByte (a : Rom) (k j : Nat) (hj : j < 8) : (romByte a k).getLsbD j = a.getLsbD (8 * k + j) := by
  simp [romByte, hj]

/-! ## Counting the slots of a pass -/

@[simp] theorem slotCounts_searchOpening : slotCounts searchOpening = (1, 0, 8) := rfl

/-- Two reads and one write for each bit index. -/
@[simp] theorem slotCounts_searchSlots (rom : Rom) (i : Nat) (pairs : List (Bool × Bool)) :
    slotCounts (searchSlots rom i pairs) = (0, 2 * pairs.length, pairs.length) := by
  induction pairs generalizing i with
  | nil => rfl
  | cons _ _ ih => simp [searchSlots, slotCounts, ih]; omega

@[simp] theorem searchSlots_length (rom : Rom) (i : Nat) (pairs : List (Bool × Bool)) :
    (searchSlots rom i pairs).length = 3 * pairs.length := by
  induction pairs generalizing i with
  | nil => rfl
  | cons _ _ ih => simp [searchSlots, ih]; omega

end Sys2Proof.Machine
end

