-- ==== Sys2Proof/Laws/Step.lean ====
section
/-! SUPPORT. The port and the step: how arrivals split at a hardware reset, and what a step is in each case. -/

namespace Sys2Proof.Machine

@[simp] theorem portBytes_nil : portBytes [] = [] := rfl

@[simp] theorem portBytes_cons (b : Byte) (bs : List Byte) : portBytes (b :: bs) = .byte b :: portBytes bs := rfl

@[simp] theorem portBytes_append (xs ys : List Byte) : portBytes (xs ++ ys) = portBytes xs ++ portBytes ys := by
  simp [portBytes]

@[simp] theorem bytesBeforeReset_portBytes (bs : List Byte) (more : List PortInput) :
    bytesBeforeReset (portBytes bs ++ more) = bs ++ bytesBeforeReset more := by
  induction bs with
  | nil => rfl
  | cons b bs ih => simp [bytesBeforeReset, ih]

@[simp] theorem fromReset_portBytes (bs : List Byte) (more : List PortInput) :
    fromReset (portBytes bs ++ more) = fromReset more := by
  induction bs with
  | nil => rfl
  | cons b bs ih => simp [fromReset, ih]

/-- The arrivals are the bytes before the first reset and what arrived from it on. -/
theorem portBytes_before_append_from (ps : List PortInput) : portBytes (bytesBeforeReset ps) ++ fromReset ps = ps := by
  induction ps with
  | nil => rfl
  | cons p ps ih => cases p <;> simp [bytesBeforeReset, fromReset, ih]

@[simp] theorem withoutReset_portBytes (bs : List Byte) (more : List PortInput) :
    withoutReset (portBytes bs ++ .hwReset :: more) = some (portBytes bs ++ more) := by
  induction bs with
  | nil => rfl
  | cons b bs ih => simp [withoutReset, ih]

/-- No reset is pending exactly when none has arrived. -/
theorem withoutReset_eq_none (ps : List PortInput) : withoutReset ps = none ↔ .hwReset ∉ ps := by
  induction ps with
  | nil => simp [withoutReset]
  | cons p ps ih => cases p <;> simp [withoutReset, ih]

/-- A running core that has received a whole command executes it. -/
theorem step_of_command {s t : State} {i : Instr} (hr : s.runState = .run) (hf : fetch s = .command i t) :
    step s = exec i t := by
  simp [step, hr, hf]

/-- A running core that has received an illegal opcode faults. -/
theorem step_of_illegal {s t : State} (hr : s.runState = .run) (hf : fetch s = .illegal t) :
    step s = .next (raiseFault .illegalOpcode t) := by
  simp [step, hr, hf]

/-- A running core that waits takes a pending hardware reset, or stays. -/
theorem step_of_waiting {s t : State} (hr : s.runState = .run) (hf : fetch s = .waiting t) :
    step s = .next ((takeReset t).getD t) := by
  simp [step, hr, hf]

/-- A FAULTED core takes a pending hardware reset, or answers the fault outcome. -/
theorem step_of_faulted {s : State} {k : Fault} (hr : s.runState = .faulted k) :
    step s = match takeReset s with
      | some t => .next t
      | none => .fault k := by
  cases h : takeReset s <;> simp [step, hr, h]

/-! ## Several steps, several commands -/

theorem runSteps_succ {s t : State} (k : Nat) (h : step s = .next t) : runSteps (k + 1) s = runSteps k t := by
  simp [runSteps, h]

theorem execAll_cons {s t : State} {i : Instr} (is : List Instr) (hr : s.runState = .run) (h : exec i s = .next t) :
    execAll (i :: is) s = execAll is t := by
  simp only [execAll]
  split
  · simp_all
  · rw [h]

end Sys2Proof.Machine
end

