-- ==== Sys2Proof/Tests/Slice0.lean ====
section
/-! SUPPORT. The model's own tests, expected values from 95_test_vectors.md (its vector ids are named) or worked by hand from the rules,
and a witness for every obligation that has hypotheses. -/

namespace Sys2Proof.Tests

open Machine

/-- A function of the next state, where there is one. -/
def seen {α : Type} (f : State → α) : Result → Option α
  | .next t => some (f t)
  | .fault _ => none
  | .refused _ => none

/-- The reset state on a given bus. -/
def onBus (b : Bus) : State := { State.reset with bus := b }

/-- The reset state with these bytes on the command port. -/
def sent (bs : List Byte) : State := { State.reset with hostIn := portBytes bs }

/-- Device set S1 of section 2.6. -/
def deviceS1 : Rom := romOfBytes [0x28#8, 0xFF#8, 0x4B#8, 0x1D#8, 0x61#8, 0x16#8, 0x03#8, 0xDE#8]

/-- Device set S2 of section 2.6. -/
def devicesS2 : List Rom :=
  [romOfBytes [0x28#8, 0x01#8, 0x02#8, 0x03#8, 0x04#8, 0x05#8, 0x06#8, 0x9E#8],
   romOfBytes [0x28#8, 0x00#8, 0x02#8, 0x03#8, 0x04#8, 0x05#8, 0x06#8, 0xA9#8]]

/-- Device set S4 of section 2.6: one address valid, one corrupted. -/
def devicesS4 : List Rom :=
  [romOfBytes [0x10#8, 0xAA#8, 0x00#8, 0x00#8, 0x00#8, 0x00#8, 0x00#8, 0x68#8],
   romOfBytes [0x28#8, 0x11#8, 0x22#8, 0x33#8, 0x44#8, 0x55#8, 0x66#8, 0x57#8]]

/-- These devices on the bus, waiting for a command. -/
def withDevices (population : List Rom) : State := onBus (.devices population (.awaitCommand []))

/-! ## Ill-formed commands are refused (R71, R78) -/

theorem test_illformed_bitWrite : ¬ (Instr.bitWrite 0x02#8).WellFormed := by decide
theorem test_illformed_bitWrite_top : ¬ (Instr.bitWrite 0x80#8).WellFormed := by decide
theorem test_illformed_blockRead : ¬ (Instr.blockRead 256).WellFormed := by decide
theorem test_illformed_blockWrite : ¬ (Instr.blockWrite (List.replicate 256 0x00#8)).WellFormed := by decide +kernel
theorem test_illformed_crc8Block : ¬ (Instr.crc8Block (List.replicate 256 0x00#8)).WellFormed := by decide +kernel
theorem test_illformed_addrComplete : ¬ (Instr.addrComplete (List.replicate 8 0x00#8)).WellFormed := by decide
theorem test_illformed_addrCheck : ¬ (Instr.addrCheck (List.replicate 7 0x00#8)).WellFormed := by decide
theorem test_illformed_crc16Block : ¬ (Instr.crc16Block (List.replicate 256 0x00#8)).WellFormed := by decide +kernel

/-! ## Decoding, from the bytes of R71, R75 and the rules' own examples -/

theorem test_decode_busReset : decode [0x01#8, 0xAA#8] = .command .busReset [0xAA#8] := by decide
theorem test_decode_bitRead : decode [0x02#8] = .command .bitRead [] := by decide
theorem test_decode_bitWrite : decode [0x03#8, 0x80#8, 0x02#8] = .command (.bitWrite 0x80#8) [0x02#8] := by decide
theorem test_decode_byteRead : decode [0x10#8] = .command .byteRead [] := by decide
theorem test_decode_byteWrite : decode [0x11#8, 0xF0#8] = .command (.byteWrite 0xF0#8) [] := by decide
theorem test_decode_blockRead : decode [0x12#8, 0xFF#8] = .command (.blockRead 255) [] := by decide
theorem test_decode_blockWrite :
    decode [0x13#8, 0x02#8, 0x55#8, 0x01#8, 0x10#8] = .command (.blockWrite [0x55#8, 0x01#8]) [0x10#8] := by decide
theorem test_decode_crc8Clear : decode [0x20#8] = .command .crc8Clear [] := by decide
theorem test_decode_crc8Update : decode [0x21#8, 0xA2#8] = .command (.crc8Update 0xA2#8) [] := by decide
theorem test_decode_crc8Block : decode [0x22#8, 0x01#8, 0x02#8] = .command (.crc8Block [0x02#8]) [] := by decide
theorem test_decode_crc8Read : decode [0x23#8] = .command .crc8Read [] := by decide
theorem test_decode_addrComplete :
    decode [0x24#8, 0x02#8, 0x1C#8, 0xB8#8, 0x01#8, 0x00#8, 0x00#8, 0x00#8, 0x23#8] =
      .command (.addrComplete [0x02#8, 0x1C#8, 0xB8#8, 0x01#8, 0x00#8, 0x00#8, 0x00#8]) [0x23#8] := by decide
theorem test_decode_addrCheck :
    decode [0x25#8, 0x28#8, 0xFF#8, 0x4B#8, 0x1D#8, 0x61#8, 0x16#8, 0x03#8, 0xDE#8] =
      .command (.addrCheck [0x28#8, 0xFF#8, 0x4B#8, 0x1D#8, 0x61#8, 0x16#8, 0x03#8, 0xDE#8]) [] := by decide
theorem test_decode_crc16Seed : decode [0x30#8, 0x34#8, 0x12#8] = .command (.crc16Seed 0x1234#16) [] := by decide
theorem test_decode_crc16Update : decode [0x31#8, 0x01#8] = .command (.crc16Update 0x01#8) [] := by decide
theorem test_decode_crc16Block : decode [0x32#8, 0x00#8, 0x33#8] = .command (.crc16Block []) [0x33#8] := by decide
theorem test_decode_crc16Read : decode [0x33#8] = .command .crc16Read [] := by decide
theorem test_decode_crc16Append : decode [0x34#8] = .command .crc16Append [] := by decide
theorem test_decode_crc16Check : decode [0x35#8] = .command .crc16Check [] := by decide
theorem test_decode_searchInit : decode [0x40#8] = .command .searchInit [] := by decide
theorem test_decode_searchPass : decode [0x41#8, 0x41#8] = .command .searchPass [0x41#8] := by decide
theorem test_decode_scan : decode [0x42#8] = .command .scan [] := by decide
theorem test_decode_searchRead : decode [0x43#8] = .command .searchRead [] := by decide
theorem test_decode_statusRead : decode [0x50#8] = .command .statusRead [] := by decide

/-- R77: 232 of the 256 opcode bytes are illegal. -/
theorem test_decode_illegal_count :
    ((List.range 256).filter fun n => decode [BitVec.ofNat 8 n] = .illegalOpcode []).length = 232 := by decide +kernel

/-- Both edges of each range of R77. -/
theorem test_decode_illegal_edges : ∀ n ∈ [0x00, 0x04, 0x0F, 0x14, 0x1F, 0x26, 0x2F, 0x36, 0x3F, 0x44, 0x4F, 0x51, 0xFF],
    decode [BitVec.ofNat 8 n, 0x20#8] = .illegalOpcode [0x20#8] := by decide

/-- R72: an operand missing (the state F-3 ends in). -/
theorem test_decode_missing : decode [0x22#8, 0x05#8, 0x01#8, 0x02#8] = .incomplete := by decide

/-- Every row of the opcode table has a command, and none of its words is refused. -/
theorem test_tableWords : ∀ w ∈ [0x01, 0x02, 0x03, 0x10, 0x11, 0x12, 0x13, 0x20, 0x21, 0x22, 0x23, 0x24, 0x25, 0x30, 0x31,
    0x32, 0x33, 0x34, 0x35, 0x40, 0x41, 0x42, 0x43, 0x50], (decodeTableWord 8 w).isSome = true := by decide +kernel

/-- The next step from reset runs the placed word (log 4). -/
theorem test_withFetchWord : seen id (step (State.reset.withFetchWord 8 0x50)) =
    some { State.reset with hostOut := [0x00#8] } := by decide +kernel

/-! ## The commands -/

/-- B-2. -/
theorem test_busReset_empty : seen (fun t => (t.pf, t.hostOut, t.busLog)) (exec .busReset (onBus .empty)) =
    some (true, [0x01#8], [.reset true]) := by decide

/-- B-1. -/
theorem test_busReset_device : seen (fun t => (t.pf, t.hostOut)) (exec .busReset { withDevices [deviceS1] with pf := true }) =
    some (false, [0x00#8]) := by decide

/-- The reads of B-3, the second one. -/
theorem test_bitRead_loopback :
    seen (fun t => (t.hostOut, t.bus)) (exec .bitRead { onBus (.loopback [false, true]) with hostOut := [0x01#8] }) =
      some ([0x01#8, 0x00#8], .loopback [true]) := by decide

/-- The first write of B-3. -/
theorem test_bitWrite_one : seen (fun t => (t.hostOut, t.busLog)) (exec (.bitWrite 0x01#8) (onBus (.loopback []))) =
    some ([], [.write true]) := by decide

/-- B-4 and F-5: ReservedOperand before any transaction. -/
theorem test_bitWrite_reserved : seen (fun t => (t.runState, t.busLog)) (exec (.bitWrite 0x02#8) State.reset) =
    some (.faulted .reservedOperand, []) := by decide

/-- B-6. -/
theorem test_byteRead : seen State.hostOut (exec .byteRead
    (onBus (.oracle [false, true, false, false, true, true, false, true]))) = some [0xB2#8] := by decide +kernel

/-- B-7. -/
theorem test_byteWrite : seen State.busLog (exec (.byteWrite 0xF0#8) State.reset) =
    some [.write false, .write false, .write false, .write false, .write true, .write true, .write true, .write true] := by
  decide

/-- B-8. -/
theorem test_blockRead : seen State.hostOut (exec (.blockRead 2) (onBus (.oracle
    [true, false, false, false, false, false, false, false, false, true, false, false, false, false, false, false]))) =
      some [0x01#8, 0x02#8] := by decide +kernel

/-- B-10. -/
theorem test_blockRead_zero : exec (.blockRead 0) State.reset = .next State.reset := rfl

/-- B-9. -/
theorem test_blockWrite : seen State.busLog (exec (.blockWrite [0x55#8, 0x01#8]) State.reset) = some
    ([.write true, .write false, .write true, .write false, .write true, .write false, .write true, .write false] ++
      [.write true, .write false, .write false, .write false, .write false, .write false, .write false, .write false]) := by
  decide

/-- C8-2. -/
theorem test_crc8Clear : seen State.crc8Acc (exec .crc8Clear { State.reset with crc8Acc := 0x5E#8 }) = some 0x00#8 := by decide

/-- C8-3, the second update. -/
theorem test_crc8Update : seen State.crc8Acc (exec (.crc8Update 0x1C#8) { State.reset with crc8Acc := 0xBC#8 }) =
    some 0xAF#8 := by decide +kernel

/-- C8-4. -/
theorem test_crc8Block : seen (fun t => (t.crc8Acc, t.hostOut))
    (exec (.crc8Block [0x02#8, 0x1C#8, 0xB8#8, 0x01#8, 0x00#8, 0x00#8, 0x00#8]) State.reset) = some (0xA2#8, []) := by
  decide +kernel

/-- C8-6: the block continues from the current value. -/
theorem test_crc8Block_continues : seen State.crc8Acc (exec (.crc8Block [0x02#8]) { State.reset with crc8Acc := 0x5E#8 }) =
    some 0x78#8 := by decide +kernel

/-- C8-5. -/
theorem test_crc8Read : seen (fun t => (t.crc8Acc, t.hostOut)) (exec .crc8Read { State.reset with crc8Acc := 0x5E#8 }) =
    some (0x5E#8, [0x5E#8]) := by decide

/-- A-1, with CRC8_ACC left alone. -/
theorem test_addrComplete : seen (fun t => (t.hostOut, t.crc8Acc))
    (exec (.addrComplete [0x02#8, 0x1C#8, 0xB8#8, 0x01#8, 0x00#8, 0x00#8, 0x00#8]) { State.reset with crc8Acc := 0x77#8 }) =
      some ([0x02#8, 0x1C#8, 0xB8#8, 0x01#8, 0x00#8, 0x00#8, 0x00#8, 0xA2#8], 0x77#8) := by decide +kernel

/-- A-2. -/
theorem test_addrCheck_valid : seen State.hostOut
    (exec (.addrCheck [0x28#8, 0xFF#8, 0x4B#8, 0x1D#8, 0x61#8, 0x16#8, 0x03#8, 0xDE#8]) State.reset) = some [0x01#8] := by
  decide +kernel

/-- A-5. -/
theorem test_addrCheck_corrupt : seen State.hostOut
    (exec (.addrCheck [0x29#8, 0xFF#8, 0x4B#8, 0x1D#8, 0x61#8, 0x16#8, 0x03#8, 0xDE#8]) State.reset) = some [0x00#8] := by
  decide +kernel

/-- C16-1. -/
theorem test_crc16Seed : seen State.crc16Acc (exec (.crc16Seed 0x1234#16) State.reset) = some 0x1234#16 := by decide

/-- C16-7, its update: seed 0x1234 and byte 0x01 (V16-8). -/
theorem test_crc16Update : seen State.crc16Acc (exec (.crc16Update 0x01#8) { State.reset with crc16Acc := 0x1234#16 }) =
    some 0x17D2#16 := by decide +kernel

/-- C16-3, its block. -/
theorem test_crc16Block : seen State.crc16Acc
    (exec (.crc16Block [0x31#8, 0x32#8, 0x33#8, 0x34#8, 0x35#8, 0x36#8, 0x37#8, 0x38#8, 0x39#8]) State.reset) =
      some 0xBB3D#16 := by decide +kernel

/-- C16-3, its read. -/
theorem test_crc16Read : seen State.hostOut (exec .crc16Read { State.reset with crc16Acc := 0xBB3D#16 }) =
    some [0x3D#8, 0xBB#8] := by decide

/-- C16-4: APPEND is inverted and read-only. -/
theorem test_crc16Append : seen (fun t => (t.hostOut, t.crc16Acc)) (exec .crc16Append { State.reset with crc16Acc := 0xC0C1#16 }) =
    some ([0x3E#8, 0x3F#8], 0xC0C1#16) := by decide

/-- C16-5. -/
theorem test_crc16Check_good : seen State.hostOut (exec .crc16Check { State.reset with crc16Acc := 0xB001#16 }) =
    some [0x01#8] := by decide

/-- C16-6. -/
theorem test_crc16Check_bad : seen State.hostOut (exec .crc16Check { State.reset with crc16Acc := 0x7050#16 }) =
    some [0x00#8] := by decide

/-- The state S4-p is in after its first pass, with PF set so that SEARCH_INIT can be seen to leave it. -/
def midSearch : State :=
  { State.reset with
    lastDisc := 4#7, lrv := true, pf := true,
    lastRom := romOfBytes [0x28#8, 0x11#8, 0x22#8, 0x33#8, 0x44#8, 0x55#8, 0x66#8, 0x57#8] }

/-- S11 and ST-3. -/
theorem test_searchInit : exec .searchInit { midSearch with done := true } = .next { State.reset with pf := true } := rfl

/-- S3-p and S4-p: LAST_DISC, then the address bytes. -/
theorem test_searchRead : seen State.hostOut (exec .searchRead midSearch) =
    some [0x04#8, 0x28#8, 0x11#8, 0x22#8, 0x33#8, 0x44#8, 0x55#8, 0x66#8, 0x57#8] := by decide +kernel

set_option maxRecDepth 20000 in
/-- S2-p, the second pass: LAST_ROM is followed below LAST_DISC, then 0 is taken at it. -/
theorem test_searchPass_second : seen (fun t => (t.hostOut, t.lastDisc, t.done, t.busLog.length))
    (exec .searchPass { withDevices devicesS2 with lastDisc := 9#7, lastRom := devicesS2.headD 0#64, lrv := true }) =
      some ([0x00#8, 0x28#8, 0x00#8, 0x02#8, 0x03#8, 0x04#8, 0x05#8, 0x06#8, 0xA9#8, 0x00#8], 0#7, true, 201) := by
  decide +kernel

/-- S6-b: an abort at bit index 2. -/
theorem test_searchPass_abort :
    seen (fun t => (t.hostOut, t.done, t.lrv, t.busLog.drop 9)) (exec .searchPass
      (onBus (.oracle [false, false, true, true, false, true, true]))) =
    some (0x02#8 :: List.replicate 9 0x00#8, true, false,
      [.read false, .read true, .write false, .read true, .read false, .write true, .read true, .read true]) := by
  decide +kernel

set_option maxRecDepth 20000 in
/-- S4: a corrupted address goes to the rejected list. -/
theorem test_scan_rejected : seen State.hostOut (exec .scan (withDevices devicesS4)) = some
    [0x00#8, 0x01#8, 0x00#8, 0x10#8, 0xAA#8, 0x00#8, 0x00#8, 0x00#8, 0x00#8, 0x00#8, 0x68#8,
      0x01#8, 0x00#8, 0x28#8, 0x11#8, 0x22#8, 0x33#8, 0x44#8, 0x55#8, 0x66#8, 0x57#8] := by decide +kernel

set_option maxRecDepth 20000 in
/-- S9: PASS_LIMIT leaves the search where the last pass left it. -/
theorem test_scan_passLimit : seen (fun t => (t.hostOut, t.lastDisc, t.done, t.lastRom))
    (exec .scan { withDevices devicesS2 with maxPasses := ⟨1, by decide⟩ }) = some
    ([0x04#8, 0x01#8, 0x00#8, 0x28#8, 0x01#8, 0x02#8, 0x03#8, 0x04#8, 0x05#8, 0x06#8, 0x9E#8, 0x00#8, 0x00#8], 9#7, false,
      devicesS2.headD 0#64) := by decide +kernel

/-- ST-2. -/
theorem test_statusRead : seen State.hostOut (exec .statusRead { State.reset with done := true, lrv := true }) = some [0x06#8] := by
  decide

/-- ST-3, its read. -/
theorem test_statusRead_pf : seen State.hostOut (exec .statusRead { State.reset with pf := true }) = some [0x01#8] := by decide

/-! ## Faults, waiting and reset, one step each -/

/-- F-1: only the illegal byte is consumed. -/
theorem test_step_illegal : step (sent [0x00#8, 0x20#8]) =
    .next { State.reset with hostIn := [.byte 0x20#8], runState := .faulted .illegalOpcode } := rfl

/-- R313: a FAULTED core consumes nothing. -/
theorem test_step_faulted : step { sent [0x20#8] with runState := .faulted .illegalOpcode } = .fault .illegalOpcode := rfl

/-- F-3: the decoder holds what has come of CRC8_BLOCK. -/
theorem test_step_waits : step { sent [0x22#8, 0x05#8, 0x01#8, 0x02#8] with crc8Acc := 0x5E#8 } =
    .next { State.reset with crc8Acc := 0x5E#8, decoder := [0x22#8, 0x05#8, 0x01#8, 0x02#8] } := rfl

/-- P6, its last sentence: the hardware reset clears CRC8_ACC and restarts the core. -/
theorem test_step_hardware_reset :
    step { State.reset with crc8Acc := 0x5E#8, runState := .faulted .illegalOpcode, hostIn := [.hwReset] } =
      .next State.reset := rfl

/-! ## The assembler (R80, R81) and the pseudo-instructions -/

/-- P2's first two lines. -/
theorem test_assemble_lines : assemble "CRC16_SEED 0   ; 30 00 00\nCRC16_BLOCK [0x12,0x34]" =
    some [0x30#8, 0x00#8, 0x00#8, 0x32#8, 0x02#8, 0x12#8, 0x34#8] := by decide +kernel

/-- P5. -/
theorem test_assemble_select : assemble "SELECT [0x28,0xFF,0x4B,0x1D,0x61,0x16,0x03,0xDE]" =
    some [0x01#8, 0x11#8, 0x55#8, 0x13#8, 0x08#8, 0x28#8, 0xFF#8, 0x4B#8, 0x1D#8, 0x61#8, 0x16#8, 0x03#8, 0xDE#8] := by
  decide +kernel

/-- R80: a number out of range for its field, and a list of the wrong length, are refused. -/
theorem test_assemble_refuses : assemble "BIT_WRITE 2" = none ∧ assemble "ADDR_CHECK [1,2]" = none := by decide +kernel

/-! ## Witnesses: for each obligation with hypotheses, a state and operands that meet all of them -/

/-- For `DecodeIffEncode`, both sides, at the largest block a format admits. -/
theorem test_witness_DecodeIffEncode :
    decode (0x22#8 :: 0xFF#8 :: List.replicate 256 0x01#8) = .command (.crc8Block (List.replicate 255 0x01#8)) [0x01#8] ∧
    (Instr.crc8Block (List.replicate 255 0x01#8)).fitsFormat = true := by decide +kernel

/-- For `IncompleteIffBytesMissing`: nothing received, and one byte missing of the longest command. -/
theorem test_witness_IncompleteIffBytesMissing :
    decode [] = .incomplete ∧ decode (0x13#8 :: 0xFF#8 :: List.replicate 254 0x00#8) = .incomplete := by decide +kernel

/-- For `IllegalOpcodeRanges`: a byte of each range is illegal (`test_decode_illegal_edges`), and each neighbour is not. -/
theorem test_witness_IllegalOpcodeRanges : ∀ n ∈ [0x01, 0x03, 0x10, 0x13, 0x20, 0x25, 0x30, 0x35, 0x40, 0x43, 0x50],
    decode [BitVec.ofNat 8 n] ≠ .illegalOpcode [] := by decide

/-- For `AssembledCommandsWellFormed`: the extremes a line admits. -/
theorem test_witness_AssembledCommandsWellFormed :
    assembleLine "BIT_WRITE 1 ; x".toList = some [.bitWrite 0x01#8] ∧
    assembleLine "BLOCK_READ 255".toList = some [.blockRead 255] ∧
    assembleLine "CRC16 [], 0xFFFF".toList = some [.crc16Seed 0xFFFF#16, .crc16Block [], .crc16Read] := by decide +kernel

/-- For `AssemblerFieldRanges`: operands at each side of their fields' ends. -/
theorem test_witness_AssemblerFieldRanges :
    assembleCommand "BYTE_WRITE" [.num 255] = some [.byteWrite 0xFF#8] ∧ assembleCommand "BYTE_WRITE" [.num 300] = none ∧
    assembleCommand "CRC16_SEED" [.num 65535] = some [.crc16Seed 0xFFFF#16] ∧ assembleCommand "CRC16_SEED" [.num 65536] = none ∧
    assembleCommand "CRC8_BLOCK" [.bytes [256]] = none := by decide +kernel

/-- For `AssemblerReadsLines`: digit texts at each side of a byte's end. -/
theorem test_witness_AssemblerReadsLines :
    ['2', '5', '6'] ≠ [] ∧ (∀ c ∈ ['2', '5', '6'], '0' ≤ c ∧ c ≤ '9') ∧
    256 = ['2', '5', '6'].foldl (fun v c => 10 * v + (c.toNat - 48)) 0 ∧
    ['F', 'F'] ≠ [] ∧ (∀ c ∈ ['F', 'F'], ('0' ≤ c ∧ c ≤ '9') ∨ ('A' ≤ c ∧ c ≤ 'F')) ∧
    255 = ['F', 'F'].foldl (fun v c => 16 * v + if c ≤ '9' then c.toNat - 48 else c.toNat - 55) 0 :=
  ⟨by simp, by simp, rfl, by simp, by simp, rfl⟩

/-- A CRC8_BLOCK whose first bytes wait in the decoder, the last of its data bytes and a later byte on the port, and a
hardware reset behind them. -/
def halfReceived : State :=
  { State.reset with decoder := [0x22#8, 0x02#8], hostIn := [.byte 0x01#8, .byte 0x02#8, .byte 0x23#8, .hwReset] }

/-- For `StepRunsDecodedCommand`. -/
theorem test_witness_StepRunsDecodedCommand : halfReceived.Running ∧
    decode (halfReceived.decoder ++ bytesBeforeReset halfReceived.hostIn) =
      .command (.crc8Block [0x01#8, 0x02#8]) [0x23#8] := by decide

/-- For `StepRunsArrivedCommand`. -/
theorem test_witness_StepRunsArrivedCommand : halfReceived.Running ∧
    (Instr.crc8Block [0x01#8, 0x02#8]).fitsFormat = true ∧
    [0x22#8, 0x02#8] ++ [0x01#8, 0x02#8] = encode (.crc8Block [0x01#8, 0x02#8]) ∧ halfReceived.decoder = [0x22#8, 0x02#8] ∧
    halfReceived.hostIn = portBytes [0x01#8, 0x02#8] ++ [.byte 0x23#8, .hwReset] := by decide

/-- For `StreamIsSequenceOfCommands` and `WellFormedStreamIsSafe`: P7, with a hardware reset after it for the first. -/
theorem test_witness_StreamIsSequenceOfCommands :
    (∀ i ∈ [Instr.busReset, .byteWrite 0xB2#8, .byteRead], i.WellFormed) ∧
    (sent [0x01#8, 0x11#8, 0xB2#8, 0x10#8]).Running ∧ (sent [0x01#8, 0x11#8, 0xB2#8, 0x10#8]).decoder = [] ∧
    (sent [0x01#8, 0x11#8, 0xB2#8, 0x10#8]).hostIn = portBytes (encodeAll [.busReset, .byteWrite 0xB2#8, .byteRead]) ++ [] := by
  decide

/-- For `WellFormedStreamIsSafe`: the same stream, with nothing after it. -/
theorem test_witness_WellFormedStreamIsSafe :
    (∀ i ∈ [Instr.bitWrite 0x01#8, .blockRead 255], i.WellFormed) ∧ (sent [0x03#8, 0x01#8, 0x12#8, 0xFF#8]).Running ∧
    (sent [0x03#8, 0x01#8, 0x12#8, 0xFF#8]).decoder = [] ∧
    (sent [0x03#8, 0x01#8, 0x12#8, 0xFF#8]).hostIn = portBytes (encodeAll [.bitWrite 0x01#8, .blockRead 255]) := by decide

/-- For `IllegalOpcodeFaultsPrecisely`: F-1. -/
theorem test_witness_IllegalOpcodeFaultsPrecisely : (sent [0x00#8, 0x20#8]).Running ∧ (sent [0x00#8, 0x20#8]).decoder = [] ∧
    (sent [0x00#8, 0x20#8]).hostIn = .byte 0x00#8 :: [.byte 0x20#8] ∧ decode [0x00#8] = .illegalOpcode [] := by decide

/-- A FAULTED core with bytes on offer. -/
def faultedCore : State := { sent [0x21#8, 0x02#8] with crc8Acc := 0x5E#8, runState := .faulted .illegalOpcode }

/-- For `FaultedUntilHardwareReset`: no reset pending, and one pending behind the bytes. -/
theorem test_witness_FaultedUntilHardwareReset :
    faultedCore.runState = .faulted .illegalOpcode ∧ .hwReset ∉ faultedCore.hostIn ∧
    { faultedCore with hostIn := [.byte 0x21#8, .hwReset, .byte 0x50#8] }.hostIn =
      portBytes [0x21#8] ++ .hwReset :: [.byte 0x50#8] := by decide

/-- For `MissingBytesOnlyWait`: F-3. -/
theorem test_witness_MissingBytesOnlyWait : (sent [0x22#8, 0x05#8, 0x01#8]).Running ∧
    (sent [0x22#8, 0x05#8, 0x01#8]).hostIn = portBytes [0x22#8, 0x05#8, 0x01#8] ∧
    decode ((sent [0x22#8, 0x05#8, 0x01#8]).decoder ++ [0x22#8, 0x05#8, 0x01#8]) = .incomplete := by decide

/-- For `HardwareResetAbortsCommand`: the reset arrives with a data byte still missing. -/
theorem test_witness_HardwareResetAbortsCommand :
    { halfReceived with hostIn := [.byte 0x01#8, .hwReset] }.Running ∧
    { halfReceived with hostIn := [.byte 0x01#8, .hwReset] }.hostIn = portBytes [0x01#8] ++ .hwReset :: [] ∧
    decode ({ halfReceived with hostIn := [.byte 0x01#8, .hwReset] }.decoder ++ [0x01#8]) = .incomplete := by decide

/-- For `StepStopsOnlyWhenFaulted`: both of its alternatives occur. -/
theorem test_witness_StepStopsOnlyWhenFaulted :
    step faultedCore = .fault .illegalOpcode ∧ ∃ t, step halfReceived = .next t := ⟨rfl, _, rfl⟩

/-- For `StepKeepsInvariant`: a state in the middle of a search, and a step from it. -/
theorem test_witness_StepKeepsInvariant : { midSearch with hostIn := [.byte 0x43#8] }.Inv ∧
    ∃ t, step { midSearch with hostIn := [.byte 0x43#8] } = .next t :=
  ⟨⟨by decide, by decide, by decide +kernel, by decide, by decide, by decide⟩, _, rfl⟩

/-- For `RegisterWriters`: each clause meets a command it speaks of, one that writes other registers. -/
theorem test_witness_RegisterWriters :
    (∃ t, exec .scan midSearch = .next t) ∧ (¬ ∃ v d, Instr.scan = .crc8Clear ∨ Instr.scan = .crc8Update v ∨ Instr.scan = .crc8Block d) ∧
    (¬ ∃ w v d, Instr.scan = .crc16Seed w ∨ Instr.scan = .crc16Update v ∨ Instr.scan = .crc16Block d) ∧
    (∃ t, exec (.bitWrite 0x01#8) midSearch = .next t) ∧ Instr.bitWrite 0x01#8 ≠ .searchInit ∧
    Instr.bitWrite 0x01#8 ≠ .searchPass ∧ Instr.bitWrite 0x01#8 ≠ .scan ∧ Instr.bitWrite 0x01#8 ≠ .busReset ∧
    (Instr.bitWrite 0x01#8).reservedZero = true :=
  ⟨⟨_, rfl⟩, by simp, by simp, ⟨_, rfl⟩, by decide, by decide, by decide, by decide, by decide⟩

/-- For `TransactionCounts` and `ResponseLengths`: at the operand bounds the formats set. -/
theorem test_witness_TransactionCounts : ∀ i ∈ [Instr.busReset, .bitRead, .bitWrite 0x01#8, .byteRead, .byteWrite 0xFF#8,
    .blockRead 0, .blockRead 255, .blockWrite [], .searchPass, .scan, .crc8Read, .addrComplete (List.replicate 7 0xFF#8),
    .addrCheck (List.replicate 8 0xFF#8)], i.WellFormed := by decide

/-- For `TransactionCounts`: the failed outcomes of a pass (S5-p, S6-a; the completed one is `test_searchPass_second`). -/
theorem test_witness_TransactionCounts_pass :
    seen (fun t => t.busLog) (exec .searchPass (onBus .empty)) = some ((onBus .empty).busLog ++ [.reset true]) ∧
    seen (fun t => slotCounts t.busLog) (exec .searchPass (onBus (.oracle [false, true, true]))) = some (1, 2, 8) := by
  decide +kernel

/-- For `TransactionCounts`: the failed outcomes of a scan (S5, and an abort of its first pass). The completed one is `test_scan_rejected`,
and PASS_LIMIT `test_scan_passLimit`. -/
theorem test_witness_TransactionCounts_scan :
    seen (fun t => (t.hostOut.headD 0xFF#8, slotCounts t.busLog)) (exec .scan (onBus .empty)) = some (0x01#8, 1, 0, 0) ∧
    seen (fun t => (t.hostOut.headD 0xFF#8, slotCounts t.busLog)) (exec .scan (onBus (.oracle [false, true, true]))) =
      some (0x02#8, 1, 2, 8) := by decide +kernel

/-- For `ScanResponseBounds`: how the failed scans leave PF and the history (S5 and an abort). A completed scan's bytes are
`test_scan_rejected`, those of PASS_LIMIT `test_scan_passLimit`. -/
theorem test_witness_ScanResponseBounds :
    seen (fun t => (t.pf, t.busLog.getLast?)) (exec .scan (onBus .empty)) = some (true, some (.reset true)) ∧
    seen (fun t => (t.pf, t.busLog.getLast?)) (exec .scan (onBus (.oracle [false, true, true]))) =
      some (false, some (.read true)) := by decide +kernel

/-- For `CrcAccumulatorIsPrivate`: a command that carries the accumulator along (ADDR_CHECK, A-2). -/
theorem test_witness_CrcAccumulatorIsPrivate_carried :
    (¬ ∃ v d, Instr.addrCheck (romBytes deviceS1) = .crc8Update v ∨ Instr.addrCheck (romBytes deviceS1) = .crc8Block d ∨
      Instr.addrCheck (romBytes deviceS1) = .crc8Read) ∧
    ∃ t, exec (.addrCheck (romBytes deviceS1)) { State.reset with crc8Acc := 0x5E#8 } = .next t ∧ t.crc8Acc = 0x5E#8 :=
  ⟨by simp, _, rfl, rfl⟩

/-- For `CrcAccumulatorIsPrivate`: the command that clears it. -/
theorem test_witness_CrcAccumulatorIsPrivate :
    (¬ ∃ v d, Instr.crc8Clear = .crc8Update v ∨ Instr.crc8Clear = .crc8Block d ∨ Instr.crc8Clear = .crc8Read) ∧
    ∃ t, exec .crc8Clear { State.reset with crc8Acc := 0x5E#8 } = .next t := ⟨by simp, _, rfl⟩

/-- For `BusResetResult`: both environments its clauses name, the second with and without a device. -/
theorem test_witness_BusResetResult :
    (onBus (.oracle [true])).bus = .oracle (true :: []) ∧ (withDevices []).bus = .devices [] (.awaitCommand []) ∧
    (withDevices [deviceS1]).bus = .devices [deviceS1] (.awaitCommand []) := by decide

/-- For `BitReadResult`. -/
theorem test_witness_BitReadResult :
    (onBus (.oracle [false])).bus = .oracle (false :: []) ∧ (onBus (.loopback [true])).bus = .loopback (true :: []) := by decide

/-- For `BitWriteResult`: both ends of the reserved values, and the two operands that are not. -/
theorem test_witness_BitWriteResult : 2 ≤ (0x02#8).toNat ∧ 2 ≤ (0xFF#8).toNat ∧ ¬ 2 ≤ (0x01#8).toNat := by decide

/-- For `ByteCodecLsbFirst`: the reads of B-6. -/
theorem test_witness_ByteCodecLsbFirst : ∃ answers rest : List Bool, answers.length = 8 ∧
    (onBus (.oracle [false, true, false, false, true, true, false, true, true])).bus = .oracle (answers ++ rest) :=
  ⟨[false, true, false, false, true, true, false, true], [true], by decide, by decide⟩

/-- For `BlockReadResult`: one byte, and the empty block. -/
theorem test_witness_BlockReadResult :
    (List.replicate 8 true).length = 8 * 1 ∧ (onBus (.oracle (List.replicate 8 true))).bus = .oracle (List.replicate 8 true ++ []) ∧
    ([] : List Bool).length = 8 * 0 ∧ (onBus (.oracle [])).bus = .oracle ([] ++ []) ∧ (255 : Nat) ≤ 255 := by decide

/-- For `BlockWriteResult`: the last data byte still missing, part of the command in the decoder already; and nothing received. -/
theorem test_witness_BlockWriteResult :
    [0x28#8, 0xFF#8].length ≤ 255 ∧ [0x13#8] ++ [0x02#8, 0x28#8] ++ [0xFF#8] = encode (.blockWrite [0x28#8, 0xFF#8]) ∧
    { sent [0x02#8, 0x28#8] with decoder := [0x13#8] }.Running ∧
    { sent [0x02#8, 0x28#8] with decoder := [0x13#8] }.hostIn = portBytes [0x02#8, 0x28#8] ∧
    ([] : List Byte) ++ [] ++ [0x13#8, 0x00#8] = encode (.blockWrite []) ∧ (sent []).decoder = [] ∧ (sent []).hostIn = portBytes [] := by
  decide

/-- For `BlocksMayBeSplit`, `LoopbackRoundTrip`, `CrcEightClearAndBlock`, `SearchInitAndRead`, `ScanIsSteppedPasses`,
`SelectAndSkipSequences` and `CrcPseudoResponses`: a running core, on an empty loop-back bus and in the middle of a search. -/
theorem test_witness_Running : (onBus (.loopback [])).Running ∧ (onBus (.loopback [])).bus = .loopback [] ∧
    midSearch.Running := by decide

/-- For `CrcEightResidue`: V8-8. -/
theorem test_witness_CrcEightResidue : [0x02#8, 0x1C#8, 0xB8#8, 0x01#8, 0x00#8, 0x00#8, 0x00#8].length = 7 ∧
    crc8 [0x02#8, 0x1C#8, 0xB8#8, 0x01#8, 0x00#8, 0x00#8, 0x00#8] = 0xA2#8 := by decide +kernel

/-- For `AddrCompleteResult` and `AddrCheckResult`. -/
theorem test_witness_AddrCheckResult : (List.replicate 7 0xFF#8).length = 7 ∧
    ∃ t, exec (.addrComplete (List.replicate 7 0xFF#8)) State.reset = .next t := ⟨by decide, _, rfl⟩

/-- For `SingleBitErrorsDetected`: a valid address, at both ends of the bit indices. -/
theorem test_witness_SingleBitErrorsDetected : 0 < 64 ∧ 63 < 64 ∧ addressValid (romBytes deviceS1) = true := by decide +kernel

/-- For `CrcSixteenSeedAndUpdate`: the byte that equals the low byte. -/
theorem test_witness_CrcSixteenSeedAndUpdate :
    (0x34#8).toNat = { State.reset with crc16Acc := 0x1234#16 }.crc16Acc.toNat % 256 := by decide

/-- For `SearchPassWithoutPresence` and `ScanWithoutPresence`. -/
theorem test_witness_SearchPassWithoutPresence : (bcReset (onBus .empty)).1 = true ∧ (bcReset (withDevices [])).1 = true := by decide

/-- For `SearchPassWithPresence`. -/
theorem test_witness_SearchPassWithPresence :
    (bcReset (withDevices devicesS2)).1 = false ∧ (bcReset (onBus (.oracle [false, true, true]))).1 = false := by decide +kernel

/-- For `SearchInitAndRead`: bit indices at both ends of LAST_ROM, and a running core. -/
theorem test_witness_SearchInitAndRead : 0 < 64 ∧ 63 < 64 ∧ midSearch.Running := by decide

/-- For `SearchPassSlots`: its three forms of history. The pass of S6-b, with a `(0,1)` and a `(1,0)` pair before the abort, the pass
without presence, and (below, with `SingleDevicePass`) one of 64 pairs. -/
theorem test_witness_SearchPassSlots :
    seen State.busLog (exec .searchPass (onBus (.oracle [false, false, true, true, false, true, true]))) =
      some (searchOpening ++ searchSlots 2#64 0 [(false, true), (true, false)] ++ [.read true, .read true]) ∧
    [(false, true), (true, false)][0]? = some (false, true) ∧ [(false, true), (true, false)][1]? = some (true, false) ∧
    (2#64).getLsbD 0 = false ∧ (2#64).getLsbD 1 = true ∧
    seen State.busLog (exec .searchPass (onBus .empty)) = some [.reset true] := by decide +kernel

/-- For `SearchPassSlots`, its clause on the devices: the last bit index with another after it, where bit 62 tells two devices apart. -/
theorem test_witness_SearchPassSlots_devices : 62 + 1 < 64 ∧
    busOnWrite true (.devices [0#64, 1#64 <<< 62] (.search 62 .write [0#64, 1#64 <<< 62])) =
      .devices [0#64, 1#64 <<< 62] (.search 63 .bit [1#64 <<< 62]) := by decide +kernel

set_option maxRecDepth 20000 in
/-- For `SingleDevicePass` and `SearchPassSlots`: S1, from a search state left by another traversal. -/
theorem test_witness_SingleDevicePass :
    seen State.busLog (exec .searchPass { midSearch with bus := .devices [deviceS1] (.awaitCommand []) }) =
      some (searchOpening ++ searchSlots deviceS1 0 (List.ofFn fun i : Fin 64 => (deviceS1.getLsbD i, !deviceS1.getLsbD i))) := by
  decide +kernel

/-- For `CompletedPassReportsAddress`: the two failed statuses (S5-p, S6-a). -/
theorem test_witness_CompletedPassReportsAddress :
    (runPass (onBus .empty)).status = .busFault ∧ (runPass (onBus (.oracle [false, true, true]))).status = .searchAbort := by
  decide +kernel

set_option maxRecDepth 20000 in
/-- For `CompletedPassReportsAddress`: one device alone, its CRC byte good or bad. -/
theorem test_witness_CompletedPassReportsAddress_completed :
    (runPass (withDevices [deviceS1])).status = .ok ∧
    (runPass (withDevices [devicesS4.getLastD 0#64])).status = .checksumMismatch := by decide +kernel

/-- For `FreshPassIgnoresLastRom`: a traversal that has ended, with an address left in LAST_ROM. -/
theorem test_witness_FreshPassIgnoresLastRom : { midSearch with lastDisc := 0#7 }.lastDisc = 0#7 ∧
    ∃ t, exec .searchPass { midSearch with lastDisc := 0#7 } = .next t := ⟨by decide, _, rfl⟩

/-- For `PassReturnsADevice` and `ScanEnumeratesPopulation`. -/
theorem test_witness_ScanEnumeratesPopulation :
    (withDevices devicesS4).bus = .devices devicesS4 (.awaitCommand []) ∧ devicesS4 ≠ [] ∧ devicesS4.Nodup ∧
    devicesS4.length ≤ (withDevices devicesS4).maxPasses.val := by decide +kernel

end Sys2Proof.Tests
end

/-! ## The state family: receiving, stepping, and which command writes what (10_state.md) -/

namespace Sys2Proof.Machine

/-! ### Receiving: what `fetch` and `takeReset` answer -/

theorem fetch_of_command {s : State} {i : Instr} {rest : List Byte}
    (h : decode (s.decoder ++ bytesBeforeReset s.hostIn) = .command i rest) :
    fetch s = .command i { s with decoder := [], hostIn := portBytes rest ++ fromReset s.hostIn } := by
  simp [fetch, h]

theorem fetch_of_illegal {s : State} {rest : List Byte}
    (h : decode (s.decoder ++ bytesBeforeReset s.hostIn) = .illegalOpcode rest) :
    fetch s = .illegal { s with decoder := [], hostIn := portBytes rest ++ fromReset s.hostIn } := by
  simp [fetch, h]

theorem fetch_of_incomplete {s : State} (h : decode (s.decoder ++ bytesBeforeReset s.hostIn) = .incomplete) :
    fetch s = .waiting { s with decoder := s.decoder ++ bytesBeforeReset s.hostIn, hostIn := fromReset s.hostIn } := by
  simp [fetch, h]

theorem takeReset_eq_none (s : State) : takeReset s = none ↔ .hwReset ∉ s.hostIn := by
  simp [takeReset, withoutReset_eq_none]

/-- The first pending reset is taken, and the bytes ahead of it stay on offer. -/
theorem takeReset_of_pending {s : State} {before : List Byte} {more : List PortInput}
    (h : s.hostIn = portBytes before ++ .hwReset :: more) :
    takeReset s = some (hardwareReset { s with hostIn := portBytes before ++ more }) := by
  simp [takeReset, h]

/-- Taking a reset, if one is pending, leaves the state alone or leaves a freshly reset core. -/
theorem takeReset_getD_cases (s : State) :
    (takeReset s).getD s = s ∨ ∃ u, (takeReset s).getD s = hardwareReset u := by
  cases h : withoutReset s.hostIn with
  | none => exact .inl (by simp [takeReset, h])
  | some rest => exact .inr ⟨{ s with hostIn := rest }, by simp [takeReset, h]⟩

/-! ### The step -/

/-- No command is refused and none stops the machine (the fault of BIT_WRITE is a next state; log 3). -/
theorem exec_eq_next (i : Instr) (s : State) : ∃ t, exec i s = .next t := by
  cases i <;> exact ⟨_, rfl⟩

/-- A running core always steps to a next state. -/
theorem step_eq_next_of_running {s : State} (hr : s.runState = .run) : ∃ t, step s = .next t := by
  cases h : fetch s with
  | command i u => exact step_of_command hr h ▸ exec_eq_next i u
  | illegal u => exact ⟨_, step_of_illegal hr h⟩
  | waiting u => exact ⟨_, step_of_waiting hr h⟩

theorem runState_cases (s : State) : s.runState = .run ∨ ∃ kind, s.runState = .faulted kind := by
  cases s.runState <;> simp

/-- What a step that answers a next state has done: executed a received command, raised IllegalOpcode, waited, or taken a
hardware reset. -/
theorem step_next_cases {s t : State} (h : step s = .next t) :
    (∃ (i : Instr) (more : List PortInput), exec i { s with decoder := [], hostIn := more } = .next t) ∨
    (∃ more : List PortInput, t = raiseFault .illegalOpcode { s with decoder := [], hostIn := more }) ∨
    (∃ (held : List Byte) (more : List PortInput), decode held = .incomplete ∧
      t = { s with decoder := held, hostIn := more }) ∨
    ∃ u : State, t = hardwareReset u := by
  obtain hr | ⟨kind, hr⟩ := runState_cases s
  · cases hd : decode (s.decoder ++ bytesBeforeReset s.hostIn) with
    | command i rest =>
      rw [step_of_command hr (fetch_of_command hd)] at h
      exact .inl ⟨i, _, h⟩
    | illegalOpcode rest =>
      rw [step_of_illegal hr (fetch_of_illegal hd)] at h
      cases h
      exact .inr (.inl ⟨_, rfl⟩)
    | incomplete =>
      rw [step_of_waiting hr (fetch_of_incomplete hd)] at h
      cases h
      obtain hu | hu := takeReset_getD_cases _
      · exact .inr (.inr (.inl ⟨_, _, hd, hu⟩))
      · exact .inr (.inr (.inr hu))
  · rw [step_of_faulted hr] at h
    cases hu : takeReset s with
    | none => simp [hu] at h
    | some u =>
      simp only [hu, Host.Outcome.next.injEq] at h
      obtain ⟨rest, -, rfl⟩ := Option.map_eq_some_iff.1 hu
      exact .inr (.inr (.inr ⟨_, h.symm⟩))

/-- Settles O8: `fetch` answers the decoded command, and the step executes it. -/
theorem stepRunsDecodedCommand : Obligations.StepRunsDecodedCommand := by
  intro s i rest hr hd
  exact step_of_command hr (fetch_of_command hd)

/-- Settles O13: the step of a FAULTED core is decided by `takeReset` alone. -/
theorem faultedUntilHardwareReset : Obligations.FaultedUntilHardwareReset := by
  intro s kind hk
  constructor
  · intro hno
    rw [step_of_faulted hk, (takeReset_eq_none s).2 hno]
  · intro before more hin
    rw [step_of_faulted hk, takeReset_of_pending hin, hardwareReset_eq]

/-- Settles O17: a running core always steps, and a FAULTED one does when it can take a reset. -/
theorem stepStopsOnlyWhenFaulted : Obligations.StepStopsOnlyWhenFaulted := by
  intro s
  cases hr : s.runState with
  | run => exact .inl (step_eq_next_of_running hr)
  | faulted kind =>
    have hs := step_of_faulted hr
    cases hu : takeReset s with
    | some u => exact .inl ⟨u, by rw [hs, hu]⟩
    | none => exact .inr ⟨kind, rfl, (takeReset_eq_none s).1 hu, by rw [hs, hu]⟩

/-! ### STATUS -/

/-- PF, DONE and LRV are the low bits of STATUS, and nothing stands above them (10_state.md R30). -/
theorem statusByte_bits (s : State) :
    (statusByte s).getLsbD 0 = s.pf ∧ (statusByte s).getLsbD 1 = s.done ∧ (statusByte s).getLsbD 2 = s.lrv ∧
      (statusByte s).toNat < 8 := by
  simp only [statusByte]
  generalize s.pf = pf, s.done = done, s.lrv = lrv
  revert pf done lrv
  decide

/-- Settles O58: the response is the STATUS byte, and nothing else changes. -/
theorem statusReadResult : Obligations.StatusReadResult := by
  intro s
  obtain ⟨hpf, hdone, hlrv, hlt⟩ := statusByte_bits s
  exact ⟨statusByte s, hpf, hdone, hlrv, hlt, rfl⟩

/-! ### What each command leaves unchanged -/

/-- `u` has all of `s` that neither a pass nor the loop of a scan writes: all but the search registers, PF and the bus side. -/
structure SameOutsideSearch (s u : State) : Prop where
  /-- CRC8_ACC -/
  crc8Acc : u.crc8Acc = s.crc8Acc
  /-- CRC16_ACC -/
  crc16Acc : u.crc16Acc = s.crc16Acc
  /-- RUNSTATE -/
  runState : u.runState = s.runState
  /-- the decoder -/
  decoder : u.decoder = s.decoder
  /-- the arrivals -/
  hostIn : u.hostIn = s.hostIn
  /-- the response stream -/
  hostOut : u.hostOut = s.hostOut
  /-- MAX_PASSES -/
  maxPasses : u.maxPasses = s.maxPasses

theorem SameOutsideSearch.trans {s t u : State} (h : SameOutsideSearch s t) (k : SameOutsideSearch t u) :
    SameOutsideSearch s u where
  crc8Acc := k.crc8Acc.trans h.crc8Acc
  crc16Acc := k.crc16Acc.trans h.crc16Acc
  runState := k.runState.trans h.runState
  decoder := k.decoder.trans h.decoder
  hostIn := k.hostIn.trans h.hostIn
  hostOut := k.hostOut.trans h.hostOut
  maxPasses := k.maxPasses.trans h.maxPasses

theorem runPass_sameOutsideSearch (s : State) : SameOutsideSearch s (runPass s).state := by
  obtain ⟨h8, h16, hrun, hdec, hin, hout, hmax⟩ := pass_keeps_rest s
  exact ⟨h8, h16, hrun, hdec, hin, hout, hmax⟩

/-- A scan leaves unchanged what each of its passes does. -/
theorem scanBus_sameOutsideSearch (s : State) : SameOutsideSearch s (scanBus s).state :=
  scanLoop_keeps (SameOutsideSearch s) (fun u h => h.trans (runPass_sameOutsideSearch u)) _ _ _ _
    ⟨rfl, rfl, rfl, rfl, rfl, rfl, rfl⟩

/-- The commands that only use the ports: they transact on the bus or respond, and write no register. -/
def portsOnly : Instr → Bool
  | .bitRead | .byteRead | .byteWrite _ | .blockRead _ | .blockWrite _ => true
  | .crc8Read | .addrComplete _ | .addrCheck _ | .crc16Read | .crc16Append | .crc16Check => true
  | .searchRead | .statusRead => true
  | .busReset | .bitWrite _ | .crc8Clear | .crc8Update _ | .crc8Block _ => false
  | .crc16Seed _ | .crc16Update _ | .crc16Block _ | .searchInit | .searchPass | .scan => false

/-- Nothing but the response stream and the bus side differs. -/
abbrev OnlyPortsDiffer (s t : State) : Prop :=
  t = { s with hostOut := t.hostOut, bus := t.bus, busLog := t.busLog, freeNext := t.freeNext }

theorem onlyPortsDiffer_respond {s u : State} (h : OnlyBusDiffers s u) (out : List Byte) :
    OnlyPortsDiffer s (respond out u) := by
  rw [h]
  rfl

theorem onlyPortsDiffer_of_bus {s u : State} (h : OnlyBusDiffers s u) : OnlyPortsDiffer s u := by
  rw [h]

/-- The commands of `portsOnly` write no register. -/
theorem exec_onlyPortsDiffer {i : Instr} {s t : State} (hi : portsOnly i = true) (h : exec i s = .next t) :
    OnlyPortsDiffer s t := by
  cases i with
  | bitRead => cases h; exact onlyPortsDiffer_respond (bcReadBit_busRun s).only _
  | byteRead => cases h; exact onlyPortsDiffer_respond (readByteBits_busRun s).only _
  | blockRead n => cases h; exact onlyPortsDiffer_respond (readBlockBits_busRun n s).only _
  | byteWrite v => cases h; exact onlyPortsDiffer_of_bus (writeByteBits_busRun v s).only
  | blockWrite d => cases h; exact onlyPortsDiffer_of_bus (writeBlockBits_busRun d s).only
  | crc8Read | crc16Read | crc16Append | crc16Check | searchRead | statusRead => cases h; rfl
  | addrComplete a | addrCheck a => cases h; rfl
  | _ => contradiction

/-- BIT_WRITE performs one transaction or raises a fault (40_bitchannel.md R104). -/
theorem execBitWrite_cases {b : Byte} {s t : State} (h : exec (.bitWrite b) s = .next t) :
    (reservedBits b = 0#7 ∧ t = bcWriteBit (operandBit b) s) ∨
      (reservedBits b ≠ 0#7 ∧ t = raiseFault .reservedOperand s) := by
  cases h
  by_cases hb : reservedBits b = 0#7 <;> simp [hb]

/-- Settles O20: a case for each group of commands that write the same registers. -/
theorem registerWriters : Obligations.RegisterWriters := by
  intro i s t h
  cases i with
  | bitRead | byteRead | crc8Read | crc16Read | crc16Append | crc16Check | searchRead | statusRead =>
    rw [exec_onlyPortsDiffer rfl h]; simp
  | byteWrite v | blockRead n | blockWrite d | addrComplete a | addrCheck a =>
    rw [exec_onlyPortsDiffer rfl h]; simp
  | busReset => cases h; simp
  | bitWrite b =>
    obtain ⟨-, rfl⟩ | ⟨hb, rfl⟩ := execBitWrite_cases h
    · simp
    · simp [Instr.reservedZero, hb]
  | crc8Clear | crc8Update v | crc8Block d => cases h; simp
  | crc16Seed w | crc16Update v | crc16Block d => cases h; simp
  | searchInit => cases h; simp
  | searchPass =>
    cases h
    obtain ⟨h8, h16, hrun, hdec, hin, -, hmax⟩ := runPass_sameOutsideSearch s
    simp [h8, h16, hrun, hdec, hin, hmax]
  | scan =>
    cases h
    obtain ⟨h8, h16, hrun, hdec, hin, -, hmax⟩ := scanBus_sameOutsideSearch s
    simp [h8, h16, hrun, hdec, hin, hmax]

end Sys2Proof.Machine

/-! ## The invariant of the search registers (10_state.md R25, R27, R28; 44_rom_search.md R202, R209) -/

namespace Sys2Proof.Machine

/-- The discrepancy position `d` is none, or one of the first `i` positions at which `rom` has a 1: what a pass has recorded
after `i` bit indices (44_rom_search.md R209, R211). -/
def DiscMarksOne (rom : Rom) (d : Disc) (i : Nat) : Prop :=
  d ≠ 0#7 → d.toNat ≤ i ∧ rom.getLsbD (d.toNat - 1) = true

theorem discMarksOne_zero (rom : Rom) (i : Nat) : DiscMarksOne rom 0#7 i := fun h => absurd rfl h

/-- A chosen bit either records nothing new, or records its own position and is a 1 (44_rom_search.md R207, R209). -/
theorem chooseBit_cases {b0 b1 prev d : Bool} {p : Nat} {last next next' : Disc}
    (h : chooseBit b0 b1 p last prev next = some (d, next')) :
    next' = next ∨ (d = true ∧ next' = BitVec.ofNat 7 p) := by
  match b0, b1 with
  | true, true => cases h
  | false, true | true, false => cases h; exact .inl rfl
  | false, false =>
    simp only [chooseBit] at h
    split at h <;> cases h
    · exact .inr ⟨rfl, rfl⟩
    · exact .inl rfl

/-- One bit index: an earlier record stands, because its bit is not written again, and a new one is at a 1. -/
theorem discMarksOne_setRomBit {b0 b1 prev d : Bool} {i : Nat} {rom : Rom} {last next next' : Disc} (hi : i < 64)
    (hm : DiscMarksOne rom next i) (hc : chooseBit b0 b1 (i + 1) last prev next = some (d, next')) :
    DiscMarksOne (setRomBit rom i d) next' (i + 1) := by
  intro hne
  rw [getLsbD_setRomBit rom i _ d hi]
  obtain rfl | ⟨rfl, rfl⟩ := chooseBit_cases hc
  · obtain ⟨hle, hbit⟩ := hm hne
    have hpos : next'.toNat ≠ 0 := fun h0 => hne (BitVec.eq_of_toNat_eq h0)
    have hother : next'.toNat - 1 ≠ i := by omega
    simp only [hother, if_false]
    exact ⟨by omega, hbit⟩
  · have hp : (BitVec.ofNat 7 (i + 1)).toNat = i + 1 := by rw [BitVec.toNat_ofNat]; omega
    simp [hp]

/-- The whole loop of a pass: what it answers is marked as each of its bit indices leaves it. -/
theorem searchBits_discMarksOne {n i : Nat} {rom rom' : Rom} {d d' : Disc} {s u : State} (hin : i + n ≤ 64)
    (hm : DiscMarksOne rom d i) (h : searchBits n i rom d s = (some (rom', d'), u)) : DiscMarksOne rom' d' (i + n) := by
  induction n generalizing i rom d s with
  | zero =>
    cases h
    exact hm
  | succ n ih =>
    simp only [searchBits] at h
    split at h
    · cases h
    · rename_i b next' hc
      have hrec := ih (by omega) (discMarksOne_setRomBit (by omega) hm hc) h
      rwa [Nat.add_right_comm] at hrec

/-- Whatever way a pass ends, the position it leaves in LAST_DISC is at a 1 of LAST_ROM. -/
theorem runPass_discMarksOne (s : State) : DiscMarksOne (runPass s).state.lastRom (runPass s).state.lastDisc 64 := by
  unfold runPass
  split
  · exact discMarksOne_zero _ _
  · generalize hr : searchBits 64 0 0#64 0#7 (writeByteBits romSearchCommand (passReset s)) = r
    obtain ⟨_ | ⟨rom, d⟩, u⟩ := r
    · exact discMarksOne_zero _ _
    · exact searchBits_discMarksOne (i := 0) le_rfl (discMarksOne_zero _ _) hr

/-- A failed pass ends the traversal and keeps LAST_ROM and LRV; only bus transactions came before it. -/
theorem failPass_inv {s u : State} (hs : s.Inv) (hu : OnlyBusDiffers (passReset s) u) : (failPass u).Inv where
  discInRange := by simp [State.DiscInRange]
  discHasRom h := absurd rfl h
  discAtOne h := absurd rfl h
  doneMeansEnd := ⟨fun _ => rfl, fun _ _ => rfl⟩
  noRomIsZero := by rw [hu]; exact hs.noRomIsZero
  decoderPartial := by rw [hu]; exact hs.decoderPartial

/-- A completed pass leaves a position at a 1 of its address, with LRV, and DONE exactly without a position. -/
theorem completePass_inv {rom : Rom} {d : Disc} {u : State} (hm : DiscMarksOne rom d 64) (hu : u.DecoderPartial) :
    (completePass rom d u).Inv where
  discInRange := by
    by_cases h : d = 0#7
    · simp [State.DiscInRange, h]
    · exact (hm h).1
  discHasRom _ := rfl
  discAtOne h := (hm h).2
  doneMeansEnd := by simp [State.DoneMeansEnd, doneFlag]
  noRomIsZero h := by simp at h
  decoderPartial := hu

theorem clearSearch_inv {s : State} (hs : s.DecoderPartial) : (clearSearch s).Inv where
  discInRange := by simp [State.DiscInRange]
  discHasRom h := absurd rfl h
  discAtOne h := absurd rfl h
  doneMeansEnd := by simp [State.DoneMeansEnd]
  noRomIsZero _ := rfl
  decoderPartial := hs

theorem hardwareReset_inv (s : State) : (hardwareReset s).Inv where
  discInRange := by simp [State.DiscInRange]
  discHasRom h := absurd rfl h
  discAtOne h := absurd rfl h
  doneMeansEnd := by simp [State.DoneMeansEnd]
  noRomIsZero _ := rfl
  decoderPartial := rfl

/-- The invariant speaks of the search registers and the decoder only. -/
theorem State.Inv.of_same_search {s t : State} (hs : s.Inv)
    (hsearch : t.lastDisc = s.lastDisc ∧ t.lastRom = s.lastRom ∧ t.lrv = s.lrv ∧ t.done = s.done)
    (hdec : t.DecoderPartial) : t.Inv := by
  obtain ⟨hdisc, hrom, hlrv, hdone⟩ := hsearch
  refine ⟨?_, ?_, ?_, ?_, ?_, hdec⟩ <;>
    simp only [State.DiscInRange, State.DiscHasRom, State.DiscAtOne, State.DoneMeansEnd, State.NoRomIsZero, hdisc, hrom,
      hlrv, hdone]
  exacts [hs.discInRange, hs.discHasRom, hs.discAtOne, hs.doneMeansEnd, hs.noRomIsZero]

/-- Bytes consumed into an incomplete command, or out of the decoder, leave the invariant. -/
theorem State.Inv.received {s : State} (hs : s.Inv) {held : List Byte} (hheld : decode held = .incomplete)
    (more : List PortInput) : State.Inv { s with decoder := held, hostIn := more } :=
  hs.of_same_search ⟨rfl, rfl, rfl, rfl⟩ hheld

theorem State.Inv.raiseFault {s : State} (hs : s.Inv) (kind : Fault) : (raiseFault kind s).Inv :=
  hs.of_same_search ⟨rfl, rfl, rfl, rfl⟩ hs.decoderPartial

/-- The response stream is not part of the invariant. -/
theorem State.Inv.respond {s : State} (hs : s.Inv) (out : List Byte) : (respond out s).Inv :=
  hs.of_same_search ⟨rfl, rfl, rfl, rfl⟩ hs.decoderPartial

theorem State.DecoderPartial.of_same_decoder {s t : State} (hs : s.DecoderPartial) (h : t.decoder = s.decoder) :
    t.DecoderPartial := by
  rwa [State.DecoderPartial, h]

/-- Every pass keeps the invariant. -/
theorem runPass_inv (s : State) (hs : s.Inv) : (runPass s).state.Inv := by
  have hm := runPass_discMarksOne s
  have hdec := hs.decoderPartial.of_same_decoder (runPass_sameOutsideSearch s).decoder
  obtain ⟨-, h⟩ | ⟨-, new, u, hu, h | ⟨rom, d, h⟩⟩ := pass_cases s
  · rw [h]; exact failPass_inv hs rfl
  · rw [h]; exact failPass_inv hs hu.only
  · rw [h] at hm hdec ⊢
    exact completePass_inv hm hdec

/-- Every scan establishes the invariant afresh and then keeps it pass by pass. -/
theorem scanBus_inv {s : State} (hs : s.DecoderPartial) : (scanBus s).state.Inv :=
  scanLoop_keeps State.Inv runPass_inv _ _ _ _ (clearSearch_inv hs)

/-- Every command keeps the invariant: only the three search commands write what it speaks of. -/
theorem exec_inv {i : Instr} {s t : State} (hs : s.Inv) (h : exec i s = .next t) : t.Inv := by
  by_cases hi : i = .searchInit ∨ i = .searchPass ∨ i = .scan
  · obtain rfl | rfl | rfl := hi <;> cases h
    · exact clearSearch_inv hs.decoderPartial
    · exact (runPass_inv s hs).respond _
    · exact (scanBus_inv hs.decoderPartial).respond _
  · obtain ⟨hinit, hpass, hscan⟩ : i ≠ .searchInit ∧ i ≠ .searchPass ∧ i ≠ .scan := by tauto
    obtain ⟨-, -, hsearch, -, -, -, hdec, -⟩ := registerWriters i s t h
    exact hs.of_same_search (hsearch hinit hpass hscan) (hs.decoderPartial.of_same_decoder hdec)

/-- Settles O18: a case for each thing a step can do. -/
theorem stepKeepsInvariant : Obligations.StepKeepsInvariant := by
  intro s t hs h
  obtain ⟨i, more, hexec⟩ | ⟨more, rfl⟩ | ⟨held, more, hheld, rfl⟩ | ⟨u, rfl⟩ := step_next_cases h
  · exact exec_inv (hs.received rfl more) hexec
  · exact (hs.received rfl more).raiseFault .illegalOpcode
  · exact hs.received hheld more
  · exact hardwareReset_inv u

end Sys2Proof.Machine

/-! ## Which commands see CRC8_ACC (10_state.md R23) -/

namespace Sys2Proof.Machine

/-- The same state with another value in CRC8_ACC. -/
def State.withCrc8 (x : Byte) (s : State) : State := { s with crc8Acc := x }

@[simp] theorem withCrc8_lastDisc (x : Byte) (s : State) : (s.withCrc8 x).lastDisc = s.lastDisc := rfl
@[simp] theorem withCrc8_lastRom (x : Byte) (s : State) : (s.withCrc8 x).lastRom = s.lastRom := rfl
@[simp] theorem withCrc8_maxPasses (x : Byte) (s : State) : (s.withCrc8 x).maxPasses = s.maxPasses := rfl

/-! ### Every shared operation does the same whatever CRC8_ACC holds, and carries it along -/

@[simp] theorem bcReset_withCrc8 (x : Byte) (s : State) :
    bcReset (s.withCrc8 x) = ((bcReset s).1, (bcReset s).2.withCrc8 x) := rfl

@[simp] theorem bcReadBit_withCrc8 (x : Byte) (s : State) :
    bcReadBit (s.withCrc8 x) = ((bcReadBit s).1, (bcReadBit s).2.withCrc8 x) := rfl

@[simp] theorem bcWriteBit_withCrc8 (x : Byte) (b : Bool) (s : State) :
    bcWriteBit b (s.withCrc8 x) = (bcWriteBit b s).withCrc8 x := rfl

@[simp] theorem respond_withCrc8 (x : Byte) (out : List Byte) (s : State) :
    respond out (s.withCrc8 x) = (respond out s).withCrc8 x := rfl

@[simp] theorem raiseFault_withCrc8 (x : Byte) (kind : Fault) (s : State) :
    raiseFault kind (s.withCrc8 x) = (raiseFault kind s).withCrc8 x := rfl

@[simp] theorem writeBits_withCrc8 (x : Byte) (bits : List Bool) (s : State) :
    writeBits bits (s.withCrc8 x) = (writeBits bits s).withCrc8 x := by
  simp [writeBits_eq, State.withCrc8]

@[simp] theorem writeByteBits_withCrc8 (x v : Byte) (s : State) :
    writeByteBits v (s.withCrc8 x) = (writeByteBits v s).withCrc8 x := writeBits_withCrc8 x _ s

@[simp] theorem writeBlockBits_withCrc8 (x : Byte) (d : List Byte) (s : State) :
    writeBlockBits d (s.withCrc8 x) = (writeBlockBits d s).withCrc8 x := by
  simp [writeBlockBits_eq_writeBits]

@[simp] theorem readBitsFrom_withCrc8 (x : Byte) (n k : Nat) (v : Byte) (s : State) :
    readBitsFrom n k v (s.withCrc8 x) = ((readBitsFrom n k v s).1, (readBitsFrom n k v s).2.withCrc8 x) := by
  induction n generalizing k v s with
  | zero => rfl
  | succ n ih => simp [readBitsFrom, ih]

@[simp] theorem readByteBits_withCrc8 (x : Byte) (s : State) :
    readByteBits (s.withCrc8 x) = ((readByteBits s).1, (readByteBits s).2.withCrc8 x) :=
  readBitsFrom_withCrc8 x 8 0 0x00#8 s

@[simp] theorem readBlockBits_withCrc8 (x : Byte) (n : Nat) (s : State) :
    readBlockBits n (s.withCrc8 x) = ((readBlockBits n s).1, (readBlockBits n s).2.withCrc8 x) := by
  induction n generalizing s with
  | zero => rfl
  | succ n ih => simp [readBlockBits, ih]

/-! ### The search -/

@[simp] theorem clearSearch_withCrc8 (x : Byte) (s : State) :
    clearSearch (s.withCrc8 x) = (clearSearch s).withCrc8 x := rfl

@[simp] theorem passReset_withCrc8 (x : Byte) (s : State) :
    passReset (s.withCrc8 x) = (passReset s).withCrc8 x := rfl

@[simp] theorem searchBits_withCrc8 (x : Byte) (n i : Nat) (rom : Rom) (d : Disc) (s : State) :
    searchBits n i rom d (s.withCrc8 x) =
      ((searchBits n i rom d s).1, (searchBits n i rom d s).2.withCrc8 x) := by
  induction n generalizing i rom d s with
  | zero => rfl
  | succ n ih =>
    simp only [searchBits, bcReadBit_withCrc8, bcWriteBit_withCrc8, withCrc8_lastDisc, withCrc8_lastRom, ih]
    split <;> rfl

/-- A pass answers the same whatever CRC8_ACC holds, and carries it along. -/
@[simp] theorem runPass_withCrc8 (x : Byte) (s : State) :
    runPass (s.withCrc8 x) = { runPass s with state := (runPass s).state.withCrc8 x } := by
  simp only [runPass, bcReset_withCrc8, passReset_withCrc8, writeByteBits_withCrc8, searchBits_withCrc8, finishPass]
  split
  · rfl
  · split <;> rfl

@[simp] theorem scanLoop_withCrc8 (x : Byte) (n : Nat) (valid rejected : List Rom) (s : State) :
    scanLoop n valid rejected (s.withCrc8 x) =
      { scanLoop n valid rejected s with state := (scanLoop n valid rejected s).state.withCrc8 x } := by
  induction n generalizing valid rejected s with
  | zero => rfl
  | succ n ih =>
    simp only [scanLoop, runPass_withCrc8, withCrc8_lastDisc, ih]
    cases (runPass s).status with
    | ok | checksumMismatch => simp only; split <;> rfl
    | busFault | searchAbort | passLimit => rfl

@[simp] theorem scanBus_withCrc8 (x : Byte) (s : State) :
    scanBus (s.withCrc8 x) = { scanBus s with state := (scanBus s).state.withCrc8 x } := by
  simp [scanBus]

/-! ### The commands -/

/-- The commands that read CRC8_ACC. -/
def readsCrc8 (i : Instr) : Prop := ∃ v d, i = .crc8Update v ∨ i = .crc8Block d ∨ i = .crc8Read

/-- A command that does not read CRC8_ACC and does not clear it does the same with another value there. -/
theorem exec_withCrc8 {i : Instr} {s t : State} (x : Byte) (hi : ¬ readsCrc8 i) (hc : i ≠ .crc8Clear)
    (h : exec i s = .next t) : exec i (s.withCrc8 x) = .next (t.withCrc8 x) := by
  cases i with
  | crc8Clear => contradiction
  | crc8Update v => exact absurd ⟨v, [], .inl rfl⟩ hi
  | crc8Block d => exact absurd ⟨0, d, .inr (.inl rfl)⟩ hi
  | crc8Read => exact absurd ⟨0, [], .inr (.inr rfl)⟩ hi
  | busReset | bitRead | searchInit => cases h; rfl
  | bitWrite b =>
    cases h
    by_cases hb : reservedBits b = 0#7 <;> simp [exec, execBitWrite, hb]
  | byteRead => cases h; simp [exec, execByteRead]
  | byteWrite v => cases h; simp [exec, execByteWrite]
  | blockRead n => cases h; simp [exec, execBlockRead]
  | blockWrite d => cases h; simp [exec, execBlockWrite]
  | addrComplete a | addrCheck a => cases h; rfl
  | crc16Seed w | crc16Update v | crc16Block d => cases h; rfl
  | crc16Read | crc16Append | crc16Check | searchRead | statusRead => cases h; rfl
  | searchPass => cases h; simp [exec, execSearchPass, passResponse]
  | scan => cases h; simp [exec, execScan]

/-- Settles O24: CRC8_CLEAR overwrites the accumulator, and every other command carries it along. -/
theorem crcAccumulatorIsPrivate : Obligations.CrcAccumulatorIsPrivate := by
  intro i s t x hi h
  by_cases hc : i = .crc8Clear
  · subst hc
    cases h
    exact ⟨rfl, rfl⟩
  · rw [if_neg hc, if_neg hc]
    obtain ⟨hkeep, -⟩ := registerWriters i s t h
    refine ⟨exec_withCrc8 x hi hc h, hkeep ?_⟩
    rintro ⟨v, d, rfl | rfl | rfl⟩
    · exact hc rfl
    · exact hi ⟨v, d, .inl rfl⟩
    · exact hi ⟨v, d, .inr (.inl rfl)⟩

end Sys2Proof.Machine

/-! ## Command reception and the order of commands (20_memory.md R57, R61) -/

namespace Sys2Proof.Machine

/-! ### A command is read back from its bytes -/

theorem decodeBytes_append {k : Nat} {d : List Byte} (h : d.length = k) (f : List Byte → Instr) (rest : List Byte) :
    decodeBytes k f (d ++ rest) = .command (f d) rest :=
  h ▸ decodeBytes_of_length f d rest

/-- Every command that fits its format is decoded from its bytes, whatever follows them (30_encoding.md R70, R71, R75). -/
theorem decode_encode_append {i : Instr} (h : i.fitsFormat = true) (rest : List Byte) :
    decode (encode i ++ rest) = .command i rest := by
  cases i with
  | blockRead n =>
    have hn : n ≤ 255 := of_decide_eq_true h
    change Decoded.command (.blockRead (BitVec.ofNat 8 n).toNat) rest = _
    rw [toNat_ofNat_count hn]
  | blockWrite d | crc8Block d | crc16Block d => exact decodeNData_of_length _ d rest (of_decide_eq_true h)
  | addrComplete a | addrCheck a => exact decodeBytes_append (of_decide_eq_true h) _ rest
  | crc16Seed w =>
    change Decoded.command (.crc16Seed (wordOfBytes (lowByte w) (highByte w))) rest = _
    rw [wordOfBytes_low_high]
  | busReset | bitRead | bitWrite b | byteRead | byteWrite v => rfl
  | crc8Clear | crc8Update v | crc8Read | crc16Update v | crc16Read | crc16Append | crc16Check => rfl
  | searchInit | searchPass | scan | searchRead | statusRead => rfl

/-- Settles O9: the bytes held and arrived decode to the command, and the arrivals behind them are put back. -/
theorem stepRunsArrivedCommand : Obligations.StepRunsArrivedCommand := by
  intro s i held arrived more hr hfit henc hheld hin
  have hdec : decode (s.decoder ++ bytesBeforeReset s.hostIn) = .command i (bytesBeforeReset more) := by
    rw [hheld, hin, bytesBeforeReset_portBytes, ← List.append_assoc, henc, decode_encode_append hfit]
  rw [stepRunsDecodedCommand s i _ hr hdec, hin, fromReset_portBytes, portBytes_before_append_from]

/-! ### What no bus operation and no search sees -/

/-- The change `f` of a state is in nothing a bus transaction or a search reads or writes: each of them does the same before
and after it. -/
structure Unseen (f : State → State) : Prop where
  /-- `reset()` -/
  bcReset : ∀ s, bcReset (f s) = ((bcReset s).1, f (bcReset s).2)
  /-- `readBit()` -/
  bcReadBit : ∀ s, bcReadBit (f s) = ((bcReadBit s).1, f (bcReadBit s).2)
  /-- `writeBit(b)` -/
  bcWriteBit : ∀ b s, bcWriteBit b (f s) = f (bcWriteBit b s)
  /-- the reset of a pass -/
  passReset : ∀ s, passReset (f s) = f (passReset s)
  /-- the registers a failed pass writes -/
  failPass : ∀ s, failPass (f s) = f (failPass s)
  /-- the registers a completed pass writes -/
  completePass : ∀ rom d s, completePass rom d (f s) = f (completePass rom d s)
  /-- the registers a scan clears -/
  clearSearch : ∀ s, clearSearch (f s) = f (clearSearch s)
  /-- LAST_DISC -/
  lastDisc : ∀ s, (f s).lastDisc = s.lastDisc
  /-- LAST_ROM -/
  lastRom : ∀ s, (f s).lastRom = s.lastRom
  /-- MAX_PASSES -/
  maxPasses : ∀ s, (f s).maxPasses = s.maxPasses

namespace Unseen

variable {f : State → State} (hf : Unseen f)
include hf

theorem writeBits (bits : List Bool) (s : State) : writeBits bits (f s) = f (writeBits bits s) := by
  induction bits generalizing s with
  | nil => rfl
  | cons b bits ih => simp only [Machine.writeBits, hf.bcWriteBit, ih]

theorem writeByteBits (v : Byte) (s : State) : writeByteBits v (f s) = f (writeByteBits v s) := hf.writeBits _ s

theorem writeBlockBits (d : List Byte) (s : State) : writeBlockBits d (f s) = f (writeBlockBits d s) := by
  simp only [writeBlockBits_eq_writeBits, hf.writeBits]

theorem readBitsFrom (n k : Nat) (v : Byte) (s : State) :
    readBitsFrom n k v (f s) = ((readBitsFrom n k v s).1, f (readBitsFrom n k v s).2) := by
  induction n generalizing k v s with
  | zero => rfl
  | succ n ih => simp only [Machine.readBitsFrom, hf.bcReadBit, ih]

theorem readByteBits (s : State) : readByteBits (f s) = ((readByteBits s).1, f (readByteBits s).2) :=
  hf.readBitsFrom 8 0 0x00#8 s

theorem readBlockBits (n : Nat) (s : State) :
    readBlockBits n (f s) = ((readBlockBits n s).1, f (readBlockBits n s).2) := by
  induction n generalizing s with
  | zero => rfl
  | succ n ih => simp only [Machine.readBlockBits, hf.readByteBits, ih]

theorem searchBits (n i : Nat) (rom : Rom) (d : Disc) (s : State) :
    searchBits n i rom d (f s) = ((searchBits n i rom d s).1, f (searchBits n i rom d s).2) := by
  induction n generalizing i rom d s with
  | zero => rfl
  | succ n ih =>
    simp only [Machine.searchBits, hf.bcReadBit, hf.bcWriteBit, hf.lastDisc, hf.lastRom, ih]
    split <;> rfl

theorem finishPass (r : Option (Rom × Disc) × State) :
    finishPass (r.1, f r.2) = { finishPass r with state := f (finishPass r).state } := by
  obtain ⟨_ | ⟨rom, d⟩, s⟩ := r
  · simp only [Machine.finishPass, hf.failPass]
  · simp only [Machine.finishPass, hf.completePass]

theorem runPass (s : State) : runPass (f s) = { runPass s with state := f (runPass s).state } := by
  simp only [Machine.runPass, hf.bcReset, hf.passReset]
  split
  · rw [hf.failPass]
  · rw [hf.writeByteBits, hf.searchBits, hf.finishPass]

theorem scanLoop (n : Nat) (valid rejected : List Rom) (s : State) :
    scanLoop n valid rejected (f s) =
      { scanLoop n valid rejected s with state := f (scanLoop n valid rejected s).state } := by
  induction n generalizing valid rejected s with
  | zero => rfl
  | succ n ih =>
    simp only [Machine.scanLoop, hf.runPass, hf.lastDisc, ih]
    cases (Machine.runPass s).status with
    | ok | checksumMismatch => simp only; split <;> rfl
    | busFault | searchAbort | passLimit => rfl

theorem scanBus (s : State) : scanBus (f s) = { scanBus s with state := f (scanBus s).state } := by
  simp only [Machine.scanBus, hf.maxPasses, hf.clearSearch, hf.scanLoop]

end Unseen

/-! ### No command sees what waits on the port -/

/-- The same state with other arrivals on the command port. -/
def State.withHostIn (ps : List PortInput) (s : State) : State := { s with hostIn := ps }

theorem withHostIn_unseen (ps : List PortInput) : Unseen (State.withHostIn ps) where
  bcReset _ := rfl
  bcReadBit _ := rfl
  bcWriteBit _ _ := rfl
  passReset _ := rfl
  failPass _ := rfl
  completePass _ _ _ := rfl
  clearSearch _ := rfl
  lastDisc _ := rfl
  lastRom _ := rfl
  maxPasses _ := rfl

/-- A command does the same whatever waits on the port, and leaves it there (20_memory.md R57). -/
theorem exec_withHostIn {i : Instr} {s t : State} (ps : List PortInput) (h : exec i s = .next t) :
    exec i (s.withHostIn ps) = .next (t.withHostIn ps) := by
  have hf := withHostIn_unseen ps
  cases i with
  | bitWrite b =>
    obtain ⟨hb, rfl⟩ | ⟨hb, rfl⟩ := execBitWrite_cases h
    · simp only [exec, execBitWrite, if_pos hb, hf.bcWriteBit]
    · simp only [exec, execBitWrite, if_neg hb]
      rfl
  | byteRead => cases h; simp only [exec, execByteRead, hf.readByteBits]; rfl
  | byteWrite v => cases h; simp only [exec, execByteWrite, hf.writeByteBits]
  | blockRead n => cases h; simp only [exec, execBlockRead, hf.readBlockBits]; rfl
  | blockWrite d => cases h; simp only [exec, execBlockWrite, hf.writeBlockBits]
  | searchPass => cases h; simp only [exec, execSearchPass, hf.runPass]; rfl
  | scan => cases h; simp only [exec, execScan, hf.scanBus]; rfl
  | busReset | bitRead | searchInit | searchRead | statusRead => cases h; rfl
  | crc8Clear | crc8Update v | crc8Block d | crc8Read | addrComplete a | addrCheck a => cases h; rfl
  | crc16Seed w | crc16Update v | crc16Block d | crc16Read | crc16Append | crc16Check => cases h; rfl

/-- The first command of a stream on the port: the step executes it and leaves the rest of the stream waiting, and it does
the same when only `more` waits. -/
theorem step_of_stream {i : Instr} {is : List Instr} {s : State} {more : List PortInput} (hi : i.WellFormed)
    (hr : s.Running) (hdec : s.decoder = []) (hin : s.hostIn = portBytes (encodeAll (i :: is)) ++ more) :
    ∃ t : State, step s = .next t ∧ exec i (s.withHostIn more) = .next (t.withHostIn more) ∧ t.Running ∧
      t.decoder = [] ∧ t.hostIn = portBytes (encodeAll is) ++ more := by
  obtain ⟨hfit, hres⟩ := hi
  have harr : s.hostIn = portBytes (encode i) ++ (portBytes (encodeAll is) ++ more) := by
    rw [hin, encodeAll, portBytes_append, List.append_assoc]
  have hstep := stepRunsArrivedCommand s i [] (encode i) _ hr hfit rfl hdec harr
  set u : State := { s with decoder := [], hostIn := portBytes (encodeAll is) ++ more } with hu
  obtain ⟨t, ht⟩ := exec_eq_next i u
  obtain ⟨-, -, -, -, hrun, hport, hd, -⟩ := registerWriters i u t ht
  refine ⟨t, hstep.trans ht, ?_, (hrun hres).trans hr, hd, hport⟩
  have hs : s.withHostIn more = u.withHostIn more := by simp only [State.withHostIn, hu, hdec]
  rw [hs]
  exact exec_withHostIn more ht

/-- Settles O10, by induction on the stream. -/
theorem streamIsSequenceOfCommands : Obligations.StreamIsSequenceOfCommands := by
  intro is
  induction is with
  | nil =>
    intro s more _ hr hdec hin
    obtain rfl : s.hostIn = more := hin
    exact ⟨rfl, s, rfl, hr, rfl, hdec⟩
  | cons i is ih =>
    intro s more hwf hr hdec hin
    obtain ⟨hi, his⟩ := List.forall_mem_cons.1 hwf
    obtain ⟨t, hstep, hexec, hrt, hdt, hint⟩ := step_of_stream hi hr hdec hin
    have hall : execAll (i :: is) { s with hostIn := more } = execAll is (t.withHostIn more) := execAll_cons is hr hexec
    rw [List.length_cons, runSteps_succ _ hstep, hall]
    exact ih t more his hrt hdt hint

end Sys2Proof.Machine

/-! ## The bus side of every command (20_memory.md R58, R60, R61; 60_exceptions.md R333) -/

namespace Sys2Proof.Machine

/-- From `s` to `t` the bus history grew by transactions whose answers are the environment's, and the environment has seen
exactly these. Unlike `BusRun` it says nothing of the registers. -/
def Transacts (s t : State) : Prop :=
  ∃ new : List Transaction, t.busLog = s.busLog ++ new ∧ agreesWith s.bus new ∧ t.bus = busAfter s.bus new

theorem BusRun.transacts {s t : State} {new : List Transaction} (h : BusRun s new t) : Transacts s t :=
  ⟨new, h.log, h.agrees, h.bus⟩

theorem Transacts.refl (s : State) : Transacts s s := (BusRun.refl s).transacts

theorem Transacts.trans {s t u : State} (h : Transacts s t) (k : Transacts t u) : Transacts s u := by
  obtain ⟨xs, hlog, hagr, hbus⟩ := h
  obtain ⟨ys, klog, kagr, kbus⟩ := k
  refine ⟨xs ++ ys, ?_, (agreesWith_append _ _ _).2 ⟨hagr, hbus ▸ kagr⟩, ?_⟩
  · rw [klog, hlog, List.append_assoc]
  · rw [kbus, hbus, busAfter_append]

/-- What is written outside the bus side does not matter. -/
theorem Transacts.of_same_bus {s t u : State} (h : Transacts s t) (hbus : u.bus = t.bus) (hlog : u.busLog = t.busLog) :
    Transacts s u := by
  unfold Transacts
  rwa [hbus, hlog]

theorem passReset_transacts (s : State) : Transacts s (passReset s) :=
  (bcReset_busRun s).transacts.of_same_bus rfl rfl

theorem runPass_transacts (s : State) : Transacts s (runPass s).state := by
  have hreset := passReset_transacts s
  obtain ⟨-, h⟩ | ⟨-, new, u, hu, h | ⟨rom, d, h⟩⟩ := pass_cases s <;> rw [h]
  · exact hreset.of_same_bus rfl rfl
  · exact (hreset.trans hu.transacts).of_same_bus rfl rfl
  · exact (hreset.trans hu.transacts).of_same_bus rfl rfl

theorem scanBus_transacts (s : State) : Transacts s (scanBus s).state :=
  scanLoop_keeps (Transacts s) (fun u h => h.trans (runPass_transacts u)) _ _ _ _
    ((Transacts.refl s).of_same_bus rfl rfl)

theorem exec_transacts {i : Instr} {s t : State} (h : exec i s = .next t) : Transacts s t := by
  cases i with
  | bitWrite b =>
    obtain ⟨-, rfl⟩ | ⟨-, rfl⟩ := execBitWrite_cases h
    · exact (bcWriteBit_busRun _ s).transacts
    · exact (Transacts.refl s).of_same_bus rfl rfl
  | busReset => cases h; exact (bcReset_busRun s).transacts.of_same_bus rfl rfl
  | bitRead => cases h; exact (bcReadBit_busRun s).transacts.of_same_bus rfl rfl
  | byteRead => cases h; exact (readByteBits_busRun s).transacts.of_same_bus rfl rfl
  | byteWrite v => cases h; exact (writeByteBits_busRun v s).transacts
  | blockRead n => cases h; exact (readBlockBits_busRun n s).transacts.of_same_bus rfl rfl
  | blockWrite d => cases h; exact (writeBlockBits_busRun d s).transacts
  | searchPass => cases h; exact (runPass_transacts s).of_same_bus rfl rfl
  | scan => cases h; exact (scanBus_transacts s).of_same_bus rfl rfl
  | searchInit | searchRead | statusRead => cases h; exact (Transacts.refl s).of_same_bus rfl rfl
  | crc8Clear | crc8Update v | crc8Block d | crc8Read | addrComplete a | addrCheck a =>
    cases h; exact (Transacts.refl s).of_same_bus rfl rfl
  | crc16Seed w | crc16Update v | crc16Block d | crc16Read | crc16Append | crc16Check =>
    cases h; exact (Transacts.refl s).of_same_bus rfl rfl

/-- Settles O21: every command answers a next state, and `exec_transacts` says what the bus saw on the way. -/
theorem busAnswersAreTheEnvironments : Obligations.BusAnswersAreTheEnvironments := by
  intro i s
  obtain ⟨t, ht⟩ := exec_eq_next i s
  obtain ⟨new, hlog, hagr, hbus⟩ := exec_transacts ht
  exact ⟨t, new, ht, hlog, hagr, hbus⟩

end Sys2Proof.Machine

/-! ## Bytes on the bus, least significant bit first (20_memory.md R53; 41_bytecodec.md R121, R123) -/

namespace Sys2Proof.Machine

theorem byteBits_eq_ofFn (v : Byte) : byteBits v = List.ofFn fun k : Fin 8 => v.getLsbD k := by
  simp [byteBits, List.ofFn_succ]

/-- Reads answered by a script are its next answers, and leave the rest of it (60_exceptions.md R333). -/
theorem oracle_reads {bits answers rest : List Bool} (hlen : answers.length = bits.length)
    (h : agreesWith (.oracle (answers ++ rest)) (bits.map .read)) :
    bits = answers ∧ busAfter (.oracle (answers ++ rest)) (bits.map .read) = .oracle rest := by
  induction bits generalizing answers with
  | nil =>
    obtain rfl := List.length_eq_zero_iff.1 hlen
    exact ⟨rfl, rfl⟩
  | cons b bits ih =>
    obtain _ | ⟨a, answers⟩ := answers
    · cases hlen
    · obtain ⟨hab, hrest⟩ := h
      obtain ⟨rfl, hbus⟩ := ih (Nat.succ.inj hlen) hrest
      obtain rfl : a = b := hab
      exact ⟨rfl, hbus⟩

/-- A run of reads on a script reads its next answers. -/
theorem BusRun.oracle_reads {s t : State} {bits answers rest : List Bool} (h : BusRun s (bits.map .read) t)
    (hlen : answers.length = bits.length) (hs : s.bus = .oracle (answers ++ rest)) :
    bits = answers ∧ t.bus = .oracle rest := by
  rw [h.bus, hs]
  exact Machine.oracle_reads hlen (hs ▸ h.agrees)

/-- Settles O28: a byte written is the write slots of its bits, and a byte read the read slots of its bits. -/
theorem byteCodecLsbFirst : Obligations.ByteCodecLsbFirst := by
  refine ⟨rfl, fun _ => rfl, fun v s => ?_, fun s => ?_⟩
  · have hw : exec (.byteWrite v) s = .next (writeBits (byteBits v) s) := rfl
    rw [hw, writeBits_eq, byteBits_eq_ofFn, List.map_ofFn]
    rfl
  · have hrun := readByteBits_busRun s
    refine ⟨(readByteBits s).1, respond [(readByteBits s).1] (readByteBits s).2, rfl, ?_, ?_⟩
    · have hlog := hrun.log
      rw [byteBits_eq_ofFn, List.map_ofFn] at hlog
      rw [hrun.only, hlog]
      rfl
    · intro answers rest hlen hs
      rw [← byteBits_eq_ofFn]
      exact hrun.oracle_reads hlen hs

end Sys2Proof.Machine

/-! ## The decoder against the encoder (30_encoding.md R70 to R79) -/

namespace Sys2Proof.Machine

/-- The byte is in one of the ranges R77 lists. -/
def IllegalOpcode (op : Byte) : Prop :=
  op.toNat = 0 ∨ (0x04 ≤ op.toNat ∧ op.toNat ≤ 0x0F) ∨ (0x14 ≤ op.toNat ∧ op.toNat ≤ 0x1F) ∨
    (0x26 ≤ op.toNat ∧ op.toNat ≤ 0x2F) ∨ (0x36 ≤ op.toNat ∧ op.toNat ≤ 0x3F) ∨
    (0x44 ≤ op.toNat ∧ op.toNat ≤ 0x4F) ∨ 0x51 ≤ op.toNat

/-- What the decoder says of the bytes is right: a command was spelled by them, an illegal opcode stands at their front, or
some command extends them. -/
def Explains (bs : List Byte) : Decoded → Prop
  | .command i rest => i.fitsFormat = true ∧ bs = encode i ++ rest
  | .illegalOpcode rest => ∃ op, IllegalOpcode op ∧ bs = op :: rest
  | .incomplete => ∃ (i : Instr) (missing : List Byte), i.fitsFormat = true ∧ missing ≠ [] ∧ encode i = bs ++ missing

/-! ### The formats, one by one (R71) -/

theorem explains_decodeOp {op : Byte} {i : Instr} (hi : i.fitsFormat = true ∧ encode i = [op]) (bs : List Byte) :
    Explains (op :: bs) (decodeOp i bs) :=
  ⟨hi.1, by rw [hi.2]; rfl⟩

theorem explains_decodeImm8 {op : Byte} {f : Byte → Instr} (hf : ∀ v, (f v).fitsFormat = true ∧ encode (f v) = [op, v]) :
    ∀ bs : List Byte, Explains (op :: bs) (decodeImm8 f bs)
  | [] => ⟨f 0, [0], (hf 0).1, by simp, (hf 0).2⟩
  | v :: rest => ⟨(hf v).1, by rw [(hf v).2]; rfl⟩

theorem explains_decodeCount {op : Byte} {f : Nat → Instr}
    (hf : ∀ n : Byte, (f n.toNat).fitsFormat = true ∧ encode (f n.toNat) = [op, n]) :
    ∀ bs : List Byte, Explains (op :: bs) (decodeCount f bs)
  | [] => ⟨f (0#8).toNat, [0], (hf 0).1, by simp, (hf 0).2⟩
  | n :: rest => ⟨(hf n).1, by rw [(hf n).2]; rfl⟩

theorem explains_decodeSeed16 {op : Byte} {f : Word16 → Instr}
    (hf : ∀ w, (f w).fitsFormat = true ∧ encode (f w) = op :: wordBytes w) :
    ∀ bs : List Byte, Explains (op :: bs) (decodeSeed16 f bs)
  | [] => ⟨f 0, wordBytes 0, (hf 0).1, by simp [wordBytes], (hf 0).2⟩
  | [lo] => by
    refine ⟨f (wordOfBytes lo 0), [0], (hf _).1, by simp, ?_⟩
    simp [hf, wordBytes]
  | lo :: hi :: rest => by
    refine ⟨(hf _).1, ?_⟩
    simp [hf, wordBytes]

/-- `front` is what stands ahead of the `k` data bytes. -/
theorem explains_decodeBytes {front : List Byte} {k : Nat} {f : List Byte → Instr}
    (hf : ∀ d, d.length = k → (f d).fitsFormat = true ∧ encode (f d) = front ++ d) (bs : List Byte) :
    Explains (front ++ bs) (decodeBytes k f bs) := by
  unfold decodeBytes
  split
  next hk =>
    obtain ⟨hfit, henc⟩ := hf (bs.take k) (List.length_take_of_le hk)
    exact ⟨hfit, by rw [henc, List.append_assoc, List.take_append_drop]⟩
  next hk =>
    obtain ⟨hfit, henc⟩ := hf (bs ++ List.replicate (k - bs.length) 0) (by simp; omega)
    have hmissing : List.replicate (k - bs.length) (0 : Byte) ≠ [] := by simp; omega
    exact ⟨_, _, hfit, hmissing, by rw [henc, List.append_assoc]⟩

theorem explains_decodeNData {op : Byte} {f : List Byte → Instr}
    (hf : ∀ d, d.length ≤ 255 → (f d).fitsFormat = true ∧ encode (f d) = op :: nDataBytes d) :
    ∀ bs : List Byte, Explains (op :: bs) (decodeNData f bs)
  | [] => ⟨f [], nDataBytes [], (hf [] (by simp)).1, by simp [nDataBytes], (hf [] (by simp)).2⟩
  | n :: bs => explains_decodeBytes (front := [op, n]) (fun d hd => by
      obtain ⟨hfit, henc⟩ := hf d (by omega)
      refine ⟨hfit, ?_⟩
      simp [henc, nDataBytes, hd]) bs

/-! ### The opcode map (R75) -/

/-- The 24 bytes of the opcode map (R75). -/
def legalOpcodes : List Byte :=
  [0x01#8, 0x02#8, 0x03#8, 0x10#8, 0x11#8, 0x12#8, 0x13#8, 0x20#8, 0x21#8, 0x22#8, 0x23#8, 0x24#8, 0x25#8,
    0x30#8, 0x31#8, 0x32#8, 0x33#8, 0x34#8, 0x35#8, 0x40#8, 0x41#8, 0x42#8, 0x43#8, 0x50#8]

/-- The ranges of R77 are all the bytes but those of the map. -/
theorem illegalOpcode_iff_not_legal : ∀ op : Byte, IllegalOpcode op ↔ op ∉ legalOpcodes := by
  unfold IllegalOpcode
  decide

theorem opcode_mem_legalOpcodes (i : Instr) : i.opcode ∈ legalOpcodes := by
  cases i <;> simp [legalOpcodes, Instr.opcode]

/-- A case for each row of the opcode map, by the lemma of its format: in turn OP_BIT and OP_IMM8, OP_N,
OP_N_DATA, OP_ADDR7 and OP_ADDR8, OP_SEED16, every byte not in the map, and OP. -/
theorem explains_decodeOpcode (op : Byte) (bs : List Byte) : Explains (op :: bs) (decodeOpcode op bs) := by
  fun_cases decodeOpcode op bs with
  | case3 | case5 | case9 | case15 => exact explains_decodeImm8 (fun _ => ⟨rfl, rfl⟩) bs
  | case6 =>
    refine explains_decodeCount (fun n => ⟨?_, ?_⟩) bs
    · simpa [Instr.fitsFormat] using Nat.le_of_lt_succ n.isLt
    · simp [encode, Instr.opcode, Instr.operandBytes]
  | case7 | case10 | case16 => exact explains_decodeNData (fun _ hd => ⟨by exact decide_eq_true hd, rfl⟩) bs
  | case12 | case13 => exact explains_decodeBytes (front := [_]) (fun _ hd => ⟨by exact decide_eq_true hd, rfl⟩) bs
  | case14 => exact explains_decodeSeed16 (fun _ => ⟨rfl, rfl⟩) bs
  | case25 => exact ⟨op, (illegalOpcode_iff_not_legal op).2 (by simp_all [legalOpcodes]), rfl⟩
  | _ => exact explains_decodeOp ⟨rfl, rfl⟩ bs

theorem explains_decode (bs : List Byte) : Explains bs (decode bs) :=
  match bs with
  | [] => ⟨.busReset, encode .busReset, rfl, List.cons_ne_nil _ _, rfl⟩
  | op :: bs => explains_decodeOpcode op bs

/-! ### What the three answers of the decoder mean -/

theorem eq_encode_of_decode_command {bs rest : List Byte} {i : Instr} (h : decode bs = .command i rest) :
    i.fitsFormat = true ∧ bs = encode i ++ rest := by
  simpa only [h, Explains] using explains_decode bs

theorem illegalOpcode_of_decode {bs rest : List Byte} (h : decode bs = .illegalOpcode rest) :
    ∃ op, IllegalOpcode op ∧ bs = op :: rest := by
  simpa only [h, Explains] using explains_decode bs

theorem extends_of_decode_incomplete {bs : List Byte} (h : decode bs = .incomplete) :
    ∃ (i : Instr) (missing : List Byte), i.fitsFormat = true ∧ missing ≠ [] ∧ encode i = bs ++ missing := by
  simpa only [h, Explains] using explains_decode bs

/-- Settles O2: `decode_encode_append` one way, what the decoder explains the other. -/
theorem decodeIffEncode : Obligations.DecodeIffEncode := by
  intro bs i rest
  refine ⟨eq_encode_of_decode_command, ?_⟩
  rintro ⟨hfit, rfl⟩
  exact decode_encode_append hfit rest

/-- No command begins with an illegal opcode. -/
theorem IllegalOpcode.opcode_ne {op : Byte} (hop : IllegalOpcode op) (i : Instr) : i.opcode ≠ op := by
  rintro rfl
  exact (illegalOpcode_iff_not_legal _).1 hop (opcode_mem_legalOpcodes i)

theorem IllegalOpcode.decode_cons {op : Byte} (hop : IllegalOpcode op) (bs : List Byte) :
    decode (op :: bs) = .illegalOpcode bs := by
  cases h : decode (op :: bs) with
  | command i rest =>
    obtain ⟨-, henc⟩ := eq_encode_of_decode_command h
    exact absurd (List.cons.inj henc).1.symm (hop.opcode_ne i)
  | illegalOpcode rest =>
    obtain ⟨_, -, heq⟩ := illegalOpcode_of_decode h
    rw [(List.cons.inj heq).2]
  | incomplete =>
    obtain ⟨i, missing, -, -, henc⟩ := extends_of_decode_incomplete h
    exact absurd (List.cons.inj henc).1 (hop.opcode_ne i)

/-- Settles O4: the illegal opcodes are those `IllegalOpcode` names. -/
theorem illegalOpcodeRanges : Obligations.IllegalOpcodeRanges := by
  intro op bs rest
  constructor
  · intro h
    obtain ⟨op', hop, heq⟩ := illegalOpcode_of_decode h
    obtain ⟨rfl, rfl⟩ := List.cons.inj heq
    exact ⟨rfl, hop⟩
  · rintro ⟨rfl, hop⟩
    exact IllegalOpcode.decode_cons hop rest

/-- Settles O3: were a proper beginning of a command read as a command or as an illegal opcode, the whole command would be. -/
theorem incompleteIffBytesMissing : Obligations.IncompleteIffBytesMissing := by
  intro bs
  refine ⟨extends_of_decode_incomplete, ?_⟩
  rintro ⟨i, missing, hfit, hmissing, henc⟩
  cases h : decode bs with
  | command j rest =>
    obtain ⟨hj, rfl⟩ := eq_encode_of_decode_command h
    have hi := decode_encode_append hfit []
    rw [List.append_nil, henc, List.append_assoc, decode_encode_append hj] at hi
    simp_all
  | illegalOpcode rest =>
    obtain ⟨op, hop, rfl⟩ := illegalOpcode_of_decode h
    exact absurd (List.cons.inj henc).1 (hop.opcode_ne i)
  | incomplete => rfl

/-- Settles O1: the decoder is run on the written-out bytes. -/
theorem specWordsDecode : Obligations.SpecWordsDecode := by
  unfold Obligations.SpecWordsDecode
  decide

/-! ### Waiting and the illegal opcode in the step (60_exceptions.md R311, R314) -/

/-- A core with no reset pending takes in what has come of an incomplete command. -/
theorem step_of_missing_bytes {s : State} {bs : List Byte} (hr : s.Running) (hin : s.hostIn = portBytes bs)
    (hd : decode (s.decoder ++ bs) = .incomplete) :
    step s = .next { s with decoder := s.decoder ++ bs, hostIn := [] } := by
  have hbefore : bytesBeforeReset s.hostIn = bs := by
    simpa [hin, bytesBeforeReset] using bytesBeforeReset_portBytes bs []
  have hfrom : fromReset s.hostIn = [] := by
    simpa [hin, fromReset] using fromReset_portBytes bs []
  rw [step_of_waiting hr (fetch_of_incomplete (hbefore.symm ▸ hd)), hbefore, hfrom]
  rfl

/-- Settles O14: the second step waits as the first, with nothing more to take in. -/
theorem missingBytesOnlyWait : Obligations.MissingBytesOnlyWait := by
  intro s bs hr hin hd
  refine ⟨step_of_missing_bytes hr hin hd, ?_⟩
  have h := step_of_missing_bytes (s := { s with decoder := s.decoder ++ bs, hostIn := [] }) (bs := []) hr rfl
    (by simpa using hd)
  simpa using h

/-- Settles O12: only the illegal byte is consumed, so the arrivals behind it are put back. -/
theorem illegalOpcodeFaultsPrecisely : Obligations.IllegalOpcodeFaultsPrecisely := by
  intro s op more hr hdec hin hop
  obtain ⟨_, hill⟩ := (illegalOpcodeRanges op [] []).1 hop
  have hd : decode (s.decoder ++ bytesBeforeReset s.hostIn) = .illegalOpcode (bytesBeforeReset more) := by
    rw [hdec, hin]
    exact IllegalOpcode.decode_cons hill _
  rw [step_of_illegal hr (fetch_of_illegal hd), hin]
  simp only [fromReset, portBytes_before_append_from, raiseFault, hdec]

end Sys2Proof.Machine

/-! ## Responses, and the pseudo-instructions (30_encoding.md R75, R81) -/

namespace Sys2Proof.Machine

/-! ### The lengths of a scan's response (44_rom_search.md R226) -/

@[simp] theorem romBytes_length (a : Rom) : (romBytes a).length = 8 := rfl

@[simp] theorem romListBytes_length (rs : List Rom) : (romListBytes rs).length = 8 * rs.length := by
  induction rs with
  | nil => rfl
  | cons a rs ih => simp [romListBytes, ih]; omega

theorem scanResponse_length (status : Status) (valid rejected : List Rom) :
    (scanResponse status valid rejected).length = 5 + 8 * (valid.length + rejected.length) := by
  simp [scanResponse, countBytes]
  omega

/-- Every pass of a scan adds at most one address. -/
theorem scanLoop_addresses_le (n : Nat) (valid rejected : List Rom) (s : State) :
    (scanLoop n valid rejected s).valid.length + (scanLoop n valid rejected s).rejected.length ≤
      valid.length + rejected.length + n := by
  induction n generalizing valid rejected s with
  | zero => simp [scanLoop]
  | succ n ih =>
    have hvalid := ih (valid ++ [(runPass s).rom]) rejected (runPass s).state
    have hrejected := ih valid (rejected ++ [(runPass s).rom]) (runPass s).state
    simp only [List.length_append, List.length_singleton] at hvalid hrejected
    simp only [scanLoop]
    split
    · split
      · simp; omega
      · omega
    · split
      · simp; omega
      · omega
    all_goals simp

theorem scanBus_addresses_le (s : State) :
    (scanBus s).valid.length + (scanBus s).rejected.length ≤ s.maxPasses.val := by
  simpa [scanBus] using scanLoop_addresses_le s.maxPasses.val [] [] (clearSearch s)

/-! ### What a command adds to the response stream -/

theorem BusRun.hostOut {s t : State} {new : List Transaction} (h : BusRun s new t) : t.hostOut = s.hostOut := by
  rw [h.only]

/-- Settles O23: a case for each kind of response. -/
theorem responseLengths : Obligations.ResponseLengths := by
  intro i s hi
  cases i with
  | busReset | bitRead | crc8Read | addrCheck a | crc16Check | statusRead => exact ⟨_, [_], rfl, rfl, rfl⟩
  | byteRead =>
    exact ⟨_, [_], rfl, congrArg (· ++ _) (readByteBits_busRun s).hostOut, rfl⟩
  | crc16Read | crc16Append => exact ⟨_, [_, _], rfl, rfl, rfl⟩
  | blockRead n =>
    exact ⟨_, (readBlockBits n s).1, rfl, congrArg (· ++ _) (readBlockBits_busRun n s).hostOut, readBlockBits_length n s⟩
  | addrComplete a =>
    have ha : a.length = 7 := of_decide_eq_true hi.1
    exact ⟨_, a ++ [crc8 a], rfl, rfl, by simp [ha]⟩
  | searchPass =>
    exact ⟨_, passResponse (runPass s), rfl, congrArg (· ++ _) (runPass_sameOutsideSearch s).hostOut, rfl⟩
  | searchRead => exact ⟨_, searchStateBytes s, rfl, rfl, rfl⟩
  | scan =>
    exact ⟨_, _, rfl, congrArg (· ++ _) (scanBus_sameOutsideSearch s).hostOut, _, _, scanBus_addresses_le s,
      scanResponse_length _ _ _⟩
  | bitWrite b =>
    have hb : reservedBits b = 0#7 := by simpa [Instr.reservedZero] using hi.2
    exact ⟨bcWriteBit (operandBit b) s, [], by simp [exec, execBitWrite, hb], (List.append_nil _).symm, rfl⟩
  | byteWrite v => exact ⟨_, [], rfl, by simp [(writeByteBits_busRun v s).hostOut], rfl⟩
  | blockWrite d => exact ⟨_, [], rfl, by simp [(writeBlockBits_busRun d s).hostOut], rfl⟩
  | crc8Clear | crc8Update v | crc8Block d => exact ⟨_, [], rfl, (List.append_nil _).symm, rfl⟩
  | crc16Seed w | crc16Update v | crc16Block d | searchInit => exact ⟨_, [], rfl, (List.append_nil _).symm, rfl⟩

/-! ### The residue of a sealed block (43_crc16.md R184) -/

theorem crc16_append (xs ys : List Byte) (seed : Word16) : crc16 (xs ++ ys) seed = crc16 ys (crc16 xs seed) := by
  simp

theorem lowByte_xor (v w : Word16) : lowByte (v ^^^ w) = lowByte v ^^^ lowByte w := BitVec.extractLsb'_xor

theorem highByte_xor (v w : Word16) : highByte (v ^^^ w) = highByte v ^^^ highByte w := BitVec.extractLsb'_xor

theorem lowByte_shiftRight (v : Word16) : lowByte (v >>> 8) = highByte v := by
  ext i
  simp [lowByte, highByte]

theorem shiftRight_twice (v : Word16) : v >>> 8 >>> 8 = 0#16 := by
  rw [← BitVec.shiftRight_add]
  exact BitVec.ushiftRight_eq_zero (by decide)

/-- The injections do not depend on the value they are made into. -/
theorem crc16Inject_eq (crc : Word16) (c : Byte) : crc16Inject crc c = (crc >>> 8) ^^^ crc16Inject 0 c := by
  simp [crc16Inject, BitVec.xor_assoc]

/-- Inverted low byte: 0xFF is injected, whatever the value was. -/
theorem crc16Byte_inverted_low (v : Word16) : crc16Byte v (lowByte (v ^^^ 0xFFFF#16)) = (v >>> 8) ^^^ 0x4040#16 := by
  have hinj : lowByte (v ^^^ 0xFFFF#16) ^^^ lowByte v = 0xFF#8 := by
    rw [lowByte_xor, BitVec.xor_comm (lowByte v), BitVec.xor_assoc, BitVec.xor_self]
    rfl
  have hcon : crc16Inject 0 0xFF#8 = 0x4040#16 := by decide
  rw [crc16Byte, hinj, crc16Inject_eq, hcon]

/-- Inverted high byte: 0xBF is injected. -/
theorem crc16Byte_inverted_high (v : Word16) :
    crc16Byte ((v >>> 8) ^^^ 0x4040#16) (highByte (v ^^^ 0xFFFF#16)) = checkConstant := by
  have hinj : highByte (v ^^^ 0xFFFF#16) ^^^ lowByte ((v >>> 8) ^^^ 0x4040#16) = 0xBF#8 := by
    rw [highByte_xor, lowByte_xor, lowByte_shiftRight, BitVec.xor_comm (highByte v), BitVec.xor_assoc,
      ← BitVec.xor_assoc (highByte v), BitVec.xor_self]
    decide
  rw [crc16Byte, hinj, crc16Inject_eq, BitVec.ushiftRight_xor_distrib, shiftRight_twice]
  decide

/-- The CRC-16 of a block and its append-mode bytes, under any seed. -/
theorem crc16_append_residue (d : List Byte) (seed : Word16) :
    crc16 (d ++ appendBytes (crc16 d seed)) seed = checkConstant := by
  rw [crc16_append, appendBytes, wordBytes, crc16, crc16Byte_inverted_low, crc16, crc16Byte_inverted_high, crc16]

/-! ### Sequences of commands -/


/-- A command with its reserved bits zero leaves a running core running. -/
theorem State.Running.exec {i : Instr} {s t : State} (hr : s.Running) (hi : i.reservedZero = true)
    (h : exec i s = .next t) : t.Running := by
  obtain ⟨-, -, -, -, hrun, -⟩ := registerWriters i s t h
  exact (hrun hi).trans hr

theorem execAll_pair {i j : Instr} {s t u : State} (hr : s.Running) (hi : i.reservedZero = true)
    (h1 : exec i s = .next t) (h2 : exec j t = .next u) : execAll [i, j] s = .next u := by
  rw [execAll_cons _ hr h1, execAll_cons _ (hr.exec hi h1) h2, execAll]

theorem execAll_triple {i j k : Instr} {s t u v : State} (hr : s.Running) (hi : i.reservedZero = true)
    (hj : j.reservedZero = true) (h1 : exec i s = .next t) (h2 : exec j t = .next u) (h3 : exec k u = .next v) :
    execAll [i, j, k] s = .next v := by
  rw [execAll_cons _ hr h1, execAll_pair (hr.exec hi h1) hj h2 h3]

/-- Settles O60: each sequence is executed command by command. -/
theorem crcPseudoResponses : Obligations.CrcPseudoResponses := by
  intro s d seed hr
  refine ⟨_, _, _, _, execAll_triple hr rfl rfl rfl rfl rfl, rfl, execAll_triple hr rfl rfl rfl rfl rfl, rfl,
    execAll_triple hr rfl rfl rfl rfl rfl, rfl, execAll_triple hr rfl rfl rfl rfl rfl, ?_⟩
  simp only [respond_hostOut, crc16_append_residue]
  rfl

/-- Settles O59: BUS_RESET responds and leaves its transaction, and the writes behind it only add theirs. -/
theorem selectAndSkipSequences : Obligations.SelectAndSkipSequences := by
  intro s a hr
  obtain ⟨t, hreset, hout, hlog⟩ : ∃ t, exec .busReset s = .next t ∧
      t.hostOut = s.hostOut ++ [bitByte (bcReset s).1] ∧ t.busLog = s.busLog ++ [.reset (bcReset s).1] :=
    ⟨_, rfl, rfl, rfl⟩
  have hselect := (writeByteBits_busRun romMatchCommand t).trans (writeBlockBits_busRun a _)
  have hskip := writeByteBits_busRun romSkipCommand t
  refine ⟨_, _, (bcReset s).1, (bcReset s).1, execAll_triple hr rfl rfl hreset rfl rfl, execAll_pair hr rfl hreset rfl,
    hselect.hostOut.trans hout, hskip.hostOut.trans hout, ?_, ?_⟩
  · simp only [hselect.log, hlog, List.append_assoc, List.singleton_append, List.map_append]
    rfl
  · simp only [hskip.log, hlog, List.append_assoc, List.singleton_append]
    rfl

end Sys2Proof.Machine

/-! ## The assembler (30_encoding.md R80, R81) -/

namespace Sys2Proof.Machine

/-! ### What fits a field -/

@[simp] theorem fitNumber_num (max n : Nat) : fitNumber max (.num n) = if n ≤ max then some n else none := rfl

@[simp] theorem fitBit_num (n : Nat) : fitBit (.num n) = if n ≤ 1 then some (BitVec.ofNat 8 n) else none := by
  simp [fitBit]

@[simp] theorem fitByte_num (n : Nat) : fitByte (.num n) = if n ≤ 255 then some (BitVec.ofNat 8 n) else none := by
  simp [fitByte]

@[simp] theorem fitWord_num (n : Nat) : fitWord (.num n) = if n ≤ 65535 then some (BitVec.ofNat 16 n) else none := by
  simp [fitWord]

@[simp] theorem fitList_num (least most n : Nat) : fitList least most (.num n) = none := rfl

@[simp] theorem fitList_bytes (least most : Nat) (ns : List Nat) : fitList least most (.bytes ns) =
    if (least ≤ ns.length ∧ ns.length ≤ most) ∧ ∀ n ∈ ns, n ≤ 255 then some (ns.map (BitVec.ofNat 8)) else none := by
  simp only [fitList, fitBytes_eq, ite_and]

theorem fitNumber_eq_some {max n : Nat} {o : AsmOperand} (h : fitNumber max o = some n) : n ≤ max := by
  cases o with
  | num k => simp at h; omega
  | bytes ns => cases h

theorem fitList_eq_some {least most : Nat} {o : AsmOperand} {d : List Byte} (h : fitList least most o = some d) :
    least ≤ d.length ∧ d.length ≤ most := by
  cases o with
  | num n => cases h
  | bytes ns =>
    rw [fitList_bytes, Option.ite_none_right_eq_some] at h
    obtain ⟨⟨hlen, -⟩, heq⟩ := h
    obtain rfl := Option.some.inj heq
    rwa [List.length_map]

theorem fitBit_eq_some {o : AsmOperand} {b : Byte} (h : fitBit o = some b) : reservedBits b = 0#7 := by
  obtain ⟨n, hn, rfl⟩ := Option.map_eq_some_iff.1 h
  have hle := fitNumber_eq_some hn
  interval_cases n <;> rfl

/-! ### Only well-formed commands -/

/-- If the assembler accepts, all the commands are well formed. -/
def AcceptsWellFormed (r : Option (List Instr)) : Prop := ∀ is, r = some is → ∀ i ∈ is, i.WellFormed

theorem acceptsWellFormed_some {is : List Instr} (h : ∀ i ∈ is, i.WellFormed) : AcceptsWellFormed (some is) := by
  rintro _ ⟨⟩
  exact h

theorem acceptsWellFormed_bind {α : Type} {fit : Option α} {f : α → Option (List Instr)}
    (h : ∀ a, fit = some a → AcceptsWellFormed (f a)) : AcceptsWellFormed (fit.bind f) := by
  intro is his
  obtain ⟨a, ha, hfa⟩ := Option.bind_eq_some_iff.1 his
  exact h a ha is hfa

theorem acceptsWellFormed_map {α : Type} {fit : Option α} {f : α → List Instr}
    (h : ∀ a, fit = some a → ∀ i ∈ f a, i.WellFormed) : AcceptsWellFormed (fit.map f) := by
  rw [Option.map_eq_bind]
  exact acceptsWellFormed_bind fun a ha => acceptsWellFormed_some (h a ha)

theorem acceptsWellFormed_one {α : Type} {fit : Option α} {f : α → Instr}
    (h : ∀ a, fit = some a → (f a).WellFormed) : AcceptsWellFormed (fit.map fun a => [f a]) :=
  acceptsWellFormed_map fun a ha => List.forall_mem_singleton.2 (h a ha)

theorem wellFormed_triple {i j k : Instr} (hi : i.WellFormed) (hj : j.WellFormed) (hk : k.WellFormed) :
    ∀ x ∈ [i, j, k], x.WellFormed := by
  simp only [List.forall_mem_cons]
  exact ⟨hi, hj, hk, List.forall_mem_nil _⟩

/-- A case for each mnemonic: the field its operand was fitted to is that of the command. The case numbers are
the rows of `assembleCommand`: BIT_WRITE, the byte and seed operands, BLOCK_READ, the blocks, the addresses, SELECT, the CRC
pseudo-instructions, CRC16, the refusal of all else, and last the rows without operand. -/
theorem assembleCommand_acceptsWellFormed (mnemonic : String) (operands : List AsmOperand) :
    AcceptsWellFormed (assembleCommand mnemonic operands) := by
  fun_cases assembleCommand mnemonic operands with
  | case3 => exact acceptsWellFormed_one fun b hb => ⟨rfl, by simpa [Instr.reservedZero] using fitBit_eq_some hb⟩
  | case5 | case9 | case14 | case15 => exact acceptsWellFormed_one fun _ _ => ⟨rfl, rfl⟩
  | case6 => exact acceptsWellFormed_one fun n hn => ⟨decide_eq_true (fitNumber_eq_some hn), rfl⟩
  | case7 | case10 | case16 =>
    exact acceptsWellFormed_one fun d hd => ⟨decide_eq_true (fitList_eq_some hd).2, rfl⟩
  | case12 | case13 =>
    refine acceptsWellFormed_one fun a ha => ⟨decide_eq_true ?_, rfl⟩
    obtain ⟨hleast, hmost⟩ := fitList_eq_some ha
    omega
  | case25 =>
    refine acceptsWellFormed_map fun a ha => wellFormed_triple ⟨rfl, rfl⟩ ⟨rfl, rfl⟩ ⟨decide_eq_true ?_, rfl⟩
    exact (fitList_eq_some ha).2.trans (by decide)
  | case27 | case29 | case30 =>
    refine acceptsWellFormed_map fun d hd => wellFormed_triple ⟨rfl, rfl⟩ ⟨decide_eq_true ?_, rfl⟩ ⟨rfl, rfl⟩
    exact (fitList_eq_some hd).2
  | case28 =>
    refine acceptsWellFormed_bind fun d hd => acceptsWellFormed_map fun seed _ =>
      wellFormed_triple ⟨rfl, rfl⟩ ⟨decide_eq_true ?_, rfl⟩ ⟨rfl, rfl⟩
    exact (fitList_eq_some hd).2
  | case31 => rintro _ ⟨⟩
  | _ => exact acceptsWellFormed_some (by decide)

/-- Settles O5: a line is blank, or it is the mnemonic with its operands that is accepted. -/
theorem assembledCommandsWellFormed : Obligations.AssembledCommandsWellFormed := by
  intro line
  change AcceptsWellFormed (assembleLine line)
  fun_cases assembleLine line with
  | case1 => exact acceptsWellFormed_some (by simp)
  | case2 => exact assembleCommand_acceptsWellFormed _ _
  | case3 => exact acceptsWellFormed_bind fun os _ => assembleCommand_acceptsWellFormed _ os

/-! ### Which operands each mnemonic accepts -/

/-- The commands with one byte list of up to 255 bytes. -/
theorem assembleCommand_block : ∀ p ∈ [("BLOCK_WRITE", fun d => [Instr.blockWrite d]), ("CRC8_BLOCK", fun d => [.crc8Block d]),
      ("CRC16_BLOCK", fun d => [.crc16Block d]), ("CRC8", fun d => [.crc8Clear, .crc8Block d, .crc8Read]),
      ("CRC16_SEAL", fun d => [.crc16Seed 0x0000#16, .crc16Block d, .crc16Append]),
      ("CRC16_VERIFY", fun d => [.crc16Seed 0x0000#16, .crc16Block d, .crc16Check])],
    ∀ o : AsmOperand, assembleCommand p.1 [o] = (fitList 0 255 o).map p.2 := by
  intro p hp o
  fin_cases hp <;> rfl

/-- The commands with one address list of a fixed length. -/
theorem assembleCommand_address : ∀ p ∈ [("ADDR_COMPLETE", 7, fun a => [Instr.addrComplete a]),
      ("ADDR_CHECK", 8, fun a => [.addrCheck a]), ("SELECT", 8, fun a => [.busReset, .byteWrite 0x55#8, .blockWrite a])],
    ∀ o : AsmOperand, assembleCommand p.1 [o] = (fitList p.2.1 p.2.1 o).map p.2.2 := by
  intro p hp o
  fin_cases hp <;> rfl

/-- The commands with one one-byte number. -/
theorem assembleCommand_byte : ∀ p ∈ [("BYTE_WRITE", Instr.byteWrite), ("CRC8_UPDATE", .crc8Update), ("CRC16_UPDATE", .crc16Update)],
    ∀ o : AsmOperand, assembleCommand p.1 [o] = (fitByte o).map fun v => [p.2 v] := by
  intro p hp o
  fin_cases hp <;> rfl

theorem assembleCommand_seed (o : AsmOperand) :
    assembleCommand "CRC16_SEED" [o] = (fitWord o).map fun w => [.crc16Seed w] := rfl

/-- Settles O6: the mnemonic fits its operand to the field, and the field's own equation says what fits. -/
theorem assemblerFieldRanges : Obligations.AssemblerFieldRanges := by
  refine ⟨fun p hp => ?_, rfl, fun n => ⟨?_, ?_, ?_⟩, fun p hp n => ?_, fun name hp ns => ?_, fun p hp ns n => ?_, fun p hp ns n => ?_, fun ns n => ?_⟩
  · fin_cases hp <;> exact ⟨rfl, fun _ => rfl⟩
  · change (fitBit (.num n)).map _ = _
    simp
  · change (fitNumber 255 (.num n)).map _ = _
    simp
  · simp [assembleCommand_seed]
  · simp [assembleCommand_byte p hp]
  · fin_cases hp <;> exact ⟨rfl, rfl⟩
  · simp [assembleCommand_block p hp]
  · simp [assembleCommand_address p hp, ← le_antisymm_iff, eq_comm]
  · change ((fitList 0 255 (.bytes ns)).bind fun d => (fitWord (.num n)).map fun seed => expandPseudo (.crc16 d seed)) = _
    have hlist : fitList 0 255 (.bytes ns) =
        if ns.length ≤ 255 ∧ ∀ m ∈ ns, m ≤ 255 then some (ns.map (BitVec.ofNat 8)) else none := by
      simp
    rw [hlist, fitWord_num]
    by_cases hd : ns.length ≤ 255 ∧ ∀ m ∈ ns, m ≤ 255
    · by_cases hn : n ≤ 65535
      · rw [if_pos hd, if_pos hn, if_pos ⟨hd.1, hd.2, hn⟩]
        rfl
      · rw [if_pos hd, if_neg hn, if_neg fun h => hn h.2.2]
        rfl
    · have hall : ¬ (ns.length ≤ 255 ∧ (∀ m ∈ ns, m ≤ 255) ∧ n ≤ 65535) := fun h => hd ⟨h.1, h.2.1⟩
      rw [if_neg hd, if_neg hall]
      rfl

/-! ### Reading a number -/

/-- A decimal digit. -/
abbrev IsDecimal (c : Char) : Prop := '0' ≤ c ∧ c ≤ '9'

/-- A hexadecimal digit, written with a capital. -/
abbrev IsHex (c : Char) : Prop := IsDecimal c ∨ ('A' ≤ c ∧ c ≤ 'F')

/-- The value of a hexadecimal digit. -/
def hexValue (c : Char) : Nat := if c ≤ '9' then c.toNat - 48 else c.toNat - 55

theorem digitValue_decimal {c : Char} (h : IsDecimal c) : digitValue c = some (c.toNat - 48) ∧ c.toNat - 48 < 10 := by
  have hle : c.toNat ≤ 57 := h.2
  exact ⟨if_pos h, by omega⟩

theorem digitValue_hex {c : Char} (h : IsHex c) : digitValue c = some (hexValue c) ∧ hexValue c < 16 := by
  obtain h | ⟨hA, hF⟩ := h
  · obtain ⟨hval, hlt⟩ := digitValue_decimal h
    rw [hexValue, if_pos h.2]
    exact ⟨hval, by omega⟩
  · have hle : c.toNat ≤ 70 := hF
    have hnot : ¬ c ≤ '9' := fun h9 => absurd (hA.trans h9) (by decide)
    rw [hexValue, if_neg hnot, digitValue, if_neg fun h => hnot h.2, if_pos ⟨hA, hF⟩]
    exact ⟨rfl, by omega⟩

theorem startsWithDigit_cons {base v : Nat} {c : Char} (cs : List Char) (h : digitValue c = some v ∧ v < base) :
    startsWithDigit base (c :: cs) = true := by
  simp [startsWithDigit, h]

theorem readNumber_decimal {cs : List Char} (hne : cs ≠ []) (h : ∀ c ∈ cs, IsDecimal c) :
    readNumber cs = some (cs.foldl (fun v c => 10 * v + (c.toNat - 48)) 0, []) := by
  have hread := readDigits_eq_foldl 10 (fun c => c.toNat - 48) cs (fun c hc => digitValue_decimal (h c hc)) 0
  simp only [Nat.mul_comm _ 10] at hread
  obtain ⟨c, rest, rfl⟩ := List.exists_cons_of_ne_nil hne
  have hstart := startsWithDigit_cons rest (digitValue_decimal (h c (by simp)))
  unfold readNumber
  split
  next heq =>
    have hx : IsDecimal 'x' := h 'x' (by simp [heq])
    exact absurd hx (by decide)
  next => rw [if_pos hstart, hread]

theorem readNumber_hex {cs : List Char} (hne : cs ≠ []) (h : ∀ c ∈ cs, IsHex c) :
    readNumber ('0' :: 'x' :: cs) = some (cs.foldl (fun v c => 16 * v + hexValue c) 0, []) := by
  have hread := readDigits_eq_foldl 16 hexValue cs (fun c hc => digitValue_hex (h c hc)) 0
  simp only [Nat.mul_comm _ 16] at hread
  obtain ⟨c, rest, rfl⟩ := List.exists_cons_of_ne_nil hne
  have hstart := startsWithDigit_cons rest (digitValue_hex (h c (by simp)))
  exact (if_pos hstart).trans (congrArg some hread)

/-! ### Reading a line of a mnemonic and one number -/

/-- A character that neither ends a word of a line, nor begins a comment, nor opens a list. -/
def isPlain (c : Char) : Bool := c != ' ' && c != '\t' && c != ';' && c != '['

/-- No digit is one of the characters the syntax sets apart. -/
theorem IsHex.isPlain {c : Char} (h : IsHex c) : isPlain c = true := by
  have hne : ∀ d : Char, ¬ IsHex d → c ≠ d := by
    rintro d hd rfl
    exact hd h
  simp [Machine.isPlain, hne ' ' (by decide), hne '\t' (by decide), hne ';' (by decide), hne '[' (by decide)]

theorem skipBlanks_of_isPlain {cs : List Char} (h : ∀ c ∈ cs, isPlain c = true) (rest : List Char) (hne : cs ≠ []) :
    skipBlanks (cs ++ rest) = cs ++ rest := by
  obtain ⟨c, cs, rfl⟩ := List.exists_cons_of_ne_nil hne
  have hc := h c (by simp)
  simp_all [isPlain, skipBlanks]

/-- A number to the end of the line is the only operand. -/
theorem readOperands_number {cs : List Char} {n : Nat} (hcs : ∀ c ∈ cs, isPlain c = true) (hne : cs ≠ [])
    (h : readNumber cs = some (n, [])) : readOperands cs.length cs = some [.num n] := by
  have hskip : skipBlanks cs = cs := by simpa using skipBlanks_of_isPlain hcs [] hne
  have hop : readOperand cs = some (.num n, []) := by
    unfold readOperand
    rw [hskip]
    split
    next => simp [isPlain] at hcs
    next => rw [h]; rfl
  obtain ⟨c, cs, rfl⟩ := List.exists_cons_of_ne_nil hne
  simp [readOperands, hop, skipBlanks]

/-- A line of a mnemonic and one number stands for the mnemonic's command with that number. -/
theorem assembleLine_number {name : String} {cs : List Char} {n : Nat} (hname : ∀ c ∈ name.toList, isPlain c = true)
    (hname_ne : name.toList ≠ []) (hcs : ∀ c ∈ cs, isPlain c = true) (hne : cs ≠ []) (h : readNumber cs = some (n, [])) :
    assembleLine (name.toList ++ ' ' :: cs) = assembleCommand name [.num n] := by
  have hcode : (name.toList ++ ' ' :: cs).takeWhile (· != ';') = name.toList ++ ' ' :: cs := by
    refine List.takeWhile_eq_self_iff.2 fun c hc => ?_
    obtain hc | rfl | hc : c ∈ name.toList ∨ c = ' ' ∨ c ∈ cs := by simpa using hc
    · have := hname c hc
      simp_all [isPlain]
    · rfl
    · have := hcs c hc
      simp_all [isPlain]
  have hword : ∀ c ∈ name.toList, (c != ' ' && c != '\t') = true := fun c hc => by
    have := hname c hc
    simp_all [isPlain]
  have hskip : skipBlanks (' ' :: cs) = cs := by
    simpa [skipBlanks] using skipBlanks_of_isPlain hcs [] hne
  unfold assembleLine
  rw [hcode, skipBlanks_of_isPlain hname _ hname_ne]
  split
  next heq => simp at heq
  next =>
    simp only [List.takeWhile_append_of_pos hword, List.dropWhile_append_of_pos hword]
    simp [hskip, readOperands_number hcs hne h]

/-- A one-byte and a 16-bit field read from a line. -/
theorem assembleLine_byte_and_seed {cs : List Char} {n : Nat} (hcs : ∀ c ∈ cs, isPlain c = true) (hne : cs ≠ [])
    (h : readNumber cs = some (n, [])) :
    assembleLine ("BYTE_WRITE ".toList ++ cs) = (if n ≤ 255 then some [.byteWrite (BitVec.ofNat 8 n)] else none) ∧
    assembleLine ("CRC16_SEED ".toList ++ cs) = (if n ≤ 65535 then some [.crc16Seed (BitVec.ofNat 16 n)] else none) := by
  have hbyte := assembleLine_number (name := "BYTE_WRITE") (by simp [isPlain]) (by simp) hcs hne h
  have hseed := assembleLine_number (name := "CRC16_SEED") (by simp [isPlain]) (by simp) hcs hne h
  have hfitByte := assembleCommand_byte ("BYTE_WRITE", .byteWrite) (by simp) (.num n)
  rw [hfitByte] at hbyte
  rw [assembleCommand_seed] at hseed
  constructor
  · simpa using hbyte
  · simpa using hseed

/-- Settles O7: the digits are read as their value, which `assembleCommand` fits to the field; the lines are run. -/
theorem assemblerReadsLines : Obligations.AssemblerReadsLines := by
  refine ⟨fun cs hne hdig n hn => ?_, fun cs hne hdig n hn => ?_, by decide +kernel⟩
  · exact assembleLine_byte_and_seed (fun c hc => IsHex.isPlain (.inl (hdig c hc))) hne (hn ▸ readNumber_decimal hne hdig)
  · have hplain : ∀ c ∈ '0' :: 'x' :: cs, isPlain c = true := by
      simp only [List.forall_mem_cons]
      exact ⟨rfl, rfl, fun c hc => IsHex.isPlain (hdig c hc)⟩
    have h := assembleLine_byte_and_seed hplain (List.cons_ne_nil _ _) (hn ▸ readNumber_hex hne hdig)
    simpa using h

end Sys2Proof.Machine

/-! ## The BitChannel commands (40_bitchannel.md R100 to R104) -/

namespace Sys2Proof.Machine

/-- A reset to which the environment fixes the answer (60_exceptions.md R333). -/
theorem bcReset_of_fixed {s : State} {a : Bool} {after : Bus} (h : busOnReset s.bus = (some a, after)) :
    (bcReset s).1 = a ∧ (bcReset s).2.bus = after := by
  obtain ⟨hans, -⟩ := (bcReset_busRun s).agrees
  rw [h] at hans
  exact ⟨hans.symm, congrArg Prod.snd h⟩

/-- A read slot to which the environment fixes the answer (60_exceptions.md R333). -/
theorem bcReadBit_of_fixed {s : State} {a : Bool} {after : Bus} (h : busOnRead s.bus = (some a, after)) :
    (bcReadBit s).1 = a ∧ (bcReadBit s).2.bus = after := by
  obtain ⟨hans, -⟩ := (bcReadBit_busRun s).agrees
  rw [h] at hans
  exact ⟨hans.symm, congrArg Prod.snd h⟩

/-- Settles O25: the bit of the one reset goes to PF and to the host, and the environment fixes it on a script and on devices. -/
theorem busResetResult : Obligations.BusResetResult := by
  refine ⟨rfl, fun s => ⟨(bcReset s).1, respond [bitByte (bcReset s).1] (passReset s), rfl, rfl, ?_, ?_⟩⟩
  · intro a rest hs
    exact bcReset_of_fixed (by rw [hs]; rfl)
  · intro population phase hs
    obtain ⟨hpf, hbus⟩ : (bcReset s).1 = population.isEmpty ∧ (bcReset s).2.bus = .devices population (.awaitCommand []) :=
      bcReset_of_fixed (by rw [hs]; rfl)
    exact ⟨by rw [hpf, List.isEmpty_iff], hbus⟩

/-- Settles O26: the bit of the one read slot goes to the host, and the environment fixes it on a script and on a queue. -/
theorem bitReadResult : Obligations.BitReadResult := by
  refine ⟨rfl, fun s => ⟨(bcReadBit s).1, respond [bitByte (bcReadBit s).1] (bcReadBit s).2, rfl, rfl, ?_, ?_⟩⟩
  · intro a rest hs
    exact bcReadBit_of_fixed (by rw [hs]; rfl)
  · intro a rest hs
    exact bcReadBit_of_fixed (by rw [hs]; rfl)

/-- Bits 7:1 of a byte are zero exactly in 0x00 and 0x01 (30_encoding.md R78). -/
theorem reservedBits_eq_zero_iff (v : Byte) : reservedBits v = 0#7 ↔ v.toNat < 2 := by
  have hlt := v.isLt
  rw [← BitVec.toNat_inj, reservedBits, BitVec.extractLsb'_toNat, Nat.shiftRight_eq_div_pow, BitVec.toNat_ofNat]
  omega

@[simp] theorem reservedBits_bitByte (b : Bool) : reservedBits (bitByte b) = 0#7 := by
  cases b <;> rfl

@[simp] theorem operandBit_bitByte (b : Bool) : operandBit (bitByte b) = b := by
  cases b <;> rfl

theorem exec_bitWrite_of_unreserved {v : Byte} (hv : reservedBits v = 0#7) (s : State) :
    exec (.bitWrite v) s = .next (bcWriteBit (operandBit v) s) :=
  congrArg Host.Outcome.next (if_pos hv)

theorem exec_bitWrite_of_reserved {v : Byte} (hv : reservedBits v ≠ 0#7) (s : State) :
    exec (.bitWrite v) s = .next (raiseFault .reservedOperand s) :=
  congrArg Host.Outcome.next (if_neg hv)

/-- Settles O27: the reserved bits decide between the write slot and the fault, and they are zero in 0x00 and 0x01 only. -/
theorem bitWriteResult : Obligations.BitWriteResult := by
  refine ⟨fun b => ⟨rfl, decode_encode_append (i := .bitWrite b) rfl []⟩, fun b s => ?_, fun v s hv => ?_⟩
  · have h := exec_bitWrite_of_unreserved (reservedBits_bitByte b) s
    rwa [operandBit_bitByte] at h
  · refine exec_bitWrite_of_reserved (fun h0 => ?_) s
    rw [reservedBits_eq_zero_iff] at h0
    omega

end Sys2Proof.Machine

/-! ## Blocks on the bus (41_bytecodec.md R122, R125 to R127; 60_exceptions.md R332) -/

namespace Sys2Proof.Machine

/-- Settles O29: the bits of the bytes read are the read slots made, and a script answers them in order. -/
theorem blockReadResult : Obligations.BlockReadResult := by
  refine ⟨fun _ _ => rfl, fun n s => ?_⟩
  have hrun := readBlockBits_busRun n s
  refine ⟨(readBlockBits n s).1, respond (readBlockBits n s).1 (readBlockBits n s).2, rfl, readBlockBits_length n s, ?_, ?_⟩
  · rw [hrun.only, hrun.log]
    rfl
  · intro answers rest hlen hs
    refine hrun.oracle_reads ?_ hs
    simp [hlen, List.length_flatMap, Nat.mul_comm]

/-- Settles O30: a proper beginning of the command is incomplete to the decoder, and the whole command writes the bits of its bytes. -/
theorem blockWriteResult : Obligations.BlockWriteResult := by
  refine ⟨fun d hd => ⟨rfl, ?_⟩, fun d s => ?_⟩
  · intro held arrived missing henc hmissing s hr hheld hin
    have hinc : decode (held ++ arrived) = .incomplete :=
      (incompleteIffBytesMissing _).2 ⟨.blockWrite d, missing, decide_eq_true hd, hmissing, henc.symm⟩
    rw [← hheld] at hinc ⊢
    exact step_of_missing_bytes hr hin hinc
  · have hw : exec (.blockWrite d) s = .next (writeBlockBits d s) := rfl
    rw [hw, writeBlockBits_eq_writeBits, writeBits_eq]

/-! ### Blocks split in two (R126) -/

theorem writeBlockBits_append (d e : List Byte) (s : State) :
    writeBlockBits (d ++ e) s = writeBlockBits e (writeBlockBits d s) := by
  simp only [writeBlockBits_eq_writeBits, List.flatMap_append, writeBits_append]

theorem readBlockBits_add (m n : Nat) (s : State) :
    readBlockBits (m + n) s = ((readBlockBits m s).1 ++ (readBlockBits n (readBlockBits m s).2).1,
      (readBlockBits n (readBlockBits m s).2).2) := by
  induction m generalizing s with
  | zero => simp [readBlockBits]
  | succ m ih => simp [Nat.succ_add, readBlockBits, ih]

/-- No bus transaction sees the response stream. -/
theorem respond_unseen (out : List Byte) : Unseen (respond out) where
  bcReset _ := rfl
  bcReadBit _ := rfl
  bcWriteBit _ _ := rfl
  passReset _ := rfl
  failPass _ := rfl
  completePass _ _ _ := rfl
  clearSearch _ := rfl
  lastDisc _ := rfl
  lastRom _ := rfl
  maxPasses _ := rfl

theorem respond_respond (xs ys : List Byte) (s : State) : respond ys (respond xs s) = respond (xs ++ ys) s := by
  simp [respond]

/-- Settles O31: the second block goes on where the first one left the bus, and the responses are appended. -/
theorem blocksMayBeSplit : Obligations.BlocksMayBeSplit := by
  intro d e m n s hr
  refine ⟨(execAll_pair hr rfl rfl rfl).trans ?_, (execAll_pair hr rfl rfl rfl).trans ?_⟩
  · exact congrArg Host.Outcome.next (writeBlockBits_append d e s).symm
  · have hread : exec (.blockRead (m + n)) s =
        .next (respond (readBlockBits (m + n) s).1 (readBlockBits (m + n) s).2) := rfl
    rw [hread, readBlockBits_add, (respond_unseen _).readBlockBits, respond_respond]

/-! ### The loop-back round trip (R122) -/

theorem byteBits_injective : Function.Injective byteBits := by
  intro v w h
  rw [byteBits_eq_ofFn, byteBits_eq_ofFn, List.ofFn_inj] at h
  exact BitVec.eq_of_getLsbD_eq fun k hk => congrFun h ⟨k, hk⟩

theorem flatMap_byteBits_injective : Function.Injective fun d : List Byte => d.flatMap byteBits := by
  intro d e
  induction d generalizing e with
  | nil => cases e <;> simp [byteBits]
  | cons v d ih =>
    cases e with
    | nil => simp [byteBits]
    | cons w e =>
      intro h
      obtain ⟨hv, hd⟩ := List.append_inj (by simpa only [List.flatMap_cons] using h) (by simp)
      rw [byteBits_injective hv, ih hd]

/-- What a loop-back answers, a script that lists its queue answers too (R332, R333). -/
theorem agreesWith_oracle_of_loopback {queue bits : List Bool} (h : agreesWith (.loopback queue) (bits.map .read)) :
    agreesWith (.oracle queue) (bits.map .read) := by
  induction bits generalizing queue with
  | nil => trivial
  | cons b bits ih =>
    obtain ⟨hb, hbits⟩ := h
    cases queue with
    | nil => exact ⟨rfl, ih hbits⟩
    | cons a queue => exact ⟨hb, ih hbits⟩

theorem busAfter_loopback_writes (queue bits : List Bool) :
    busAfter (.loopback queue) (bits.map .write) = .loopback (queue ++ bits) := by
  induction bits generalizing queue with
  | nil => simp [busAfter]
  | cons b bits ih => simp [busAfter, busOnWrite, ih]

theorem busAfter_loopback_reads (bits : List Bool) : busAfter (.loopback bits) (bits.map .read) = .loopback [] := by
  induction bits with
  | nil => rfl
  | cons b bits ih => exact ih

/-- As many reads as bits wait in a loop-back read all of them. -/
theorem BusRun.loopback_reads {s t : State} {bits queue : List Bool} (h : BusRun s (bits.map .read) t)
    (hlen : queue.length = bits.length) (hs : s.bus = .loopback queue) : bits = queue ∧ t.bus = .loopback [] := by
  have hagr := agreesWith_oracle_of_loopback (hs ▸ h.agrees)
  obtain ⟨rfl, -⟩ := Machine.oracle_reads (rest := []) hlen (by rwa [List.append_nil])
  exact ⟨rfl, by rw [h.bus, hs, busAfter_loopback_reads]⟩

/-- Settles O32: the bits read are the bits written, and they determine the bytes. -/
theorem loopbackRoundTrip : Obligations.LoopbackRoundTrip := by
  intro d s hr hs
  have hwrite := writeBlockBits_busRun d s
  have hread := readBlockBits_busRun d.length (writeBlockBits d s)
  have hqueue : (writeBlockBits d s).bus = .loopback (d.flatMap byteBits) := by
    rw [hwrite.bus, hs, busAfter_loopback_writes, List.nil_append]
  obtain ⟨hbits, hbus⟩ := hread.loopback_reads (by simp [List.length_flatMap]) hqueue
  refine ⟨_, execAll_pair hr rfl rfl rfl, ?_, hbus⟩
  rw [respond_hostOut, hread.hostOut, hwrite.hostOut, flatMap_byteBits_injective hbits]

end Sys2Proof.Machine

/-! ## CRC-8 and the address commands (42_crc8.md) -/

namespace Sys2Proof.Machine

/-! ### The per-byte step (R141) -/

theorem crc8Iteration_eq_ofNat (c : Byte) :
    crc8Iteration c = BitVec.ofNat 8 (if c.toNat % 2 = 1 then c.toNat / 2 ^^^ 0x8C else c.toNat / 2) := by
  have hshift : c >>> 1 = BitVec.ofNat 8 (c.toNat / 2) := by
    apply BitVec.eq_of_toNat_eq
    rw [BitVec.toNat_ushiftRight, BitVec.toNat_ofNat, Nat.shiftRight_eq_div_pow]
    omega
  have hlow : c.getLsbD 0 = true ↔ c.toNat % 2 = 1 := by
    simp [BitVec.getLsbD, Nat.testBit_zero]
  by_cases h : c.toNat % 2 = 1
  · rw [crc8Iteration, if_pos (hlow.2 h), if_pos h, hshift, BitVec.ofNat_xor]
  · rw [crc8Iteration, if_neg (mt hlow.1 h), if_neg h, hshift]

theorem crc8Iterations_eq_iterate (n : Nat) : crc8Iterations n = crc8Iteration^[n] := by
  induction n with
  | zero => rfl
  | succ n ih =>
    funext c
    rw [crc8Iterations, ih, Function.iterate_succ_apply]

/-- Settles O33: each iteration is the numeric one, and the trace is computed. -/
theorem crcEightByteStep : Obligations.CrcEightByteStep := by
  refine ⟨fun acc b => ?_, by decide⟩
  rw [crc8Byte, crc8Iterations_eq_iterate, funext crc8Iteration_eq_ofNat]

/-! ### No step loses information: the iteration, the byte step and the fold are injective (R144) -/

/-- The top bit of 0x8C keeps the bit that was shifted out. -/
theorem crc8Iteration_top_bit (c : Byte) : (crc8Iteration c).getLsbD 7 = c.getLsbD 0 := by
  by_cases h : c.getLsbD 0 = true
  · rw [crc8Iteration, if_pos h, h]
    simp
  · rw [crc8Iteration, if_neg h, Bool.eq_false_of_not_eq_true h]
    simp

theorem crc8Iteration_injective : Function.Injective crc8Iteration := by
  intro x y h
  have hlow : x.getLsbD 0 = y.getLsbD 0 := by
    rw [← crc8Iteration_top_bit, h, crc8Iteration_top_bit]
  have hshift : x >>> 1 = y >>> 1 := by
    rw [crc8Iteration, crc8Iteration, hlow] at h
    split at h
    · exact (BitVec.xor_left_inj _).1 h
    · exact h
  refine BitVec.eq_of_getLsbD_eq fun i _ => ?_
  cases i with
  | zero => exact hlow
  | succ i => simpa [Nat.add_comm] using congrArg (·.getLsbD i) hshift

theorem crc8Iterations_injective (n : Nat) : Function.Injective (crc8Iterations n) :=
  crc8Iterations_eq_iterate n ▸ crc8Iteration_injective.iterate n

theorem crc8Byte_right_inj {acc b c : Byte} : crc8Byte acc b = crc8Byte acc c ↔ b = c :=
  (crc8Iterations_injective 8).eq_iff.trans (BitVec.xor_right_inj acc)

theorem crc8Byte_left_inj {x y b : Byte} : crc8Byte x b = crc8Byte y b ↔ x = y :=
  (crc8Iterations_injective 8).eq_iff.trans (BitVec.xor_left_inj b)

theorem crc8Byte_eq_zero_iff {acc b : Byte} : crc8Byte acc b = 0x00#8 ↔ b = acc := by
  rw [← crc8Byte_self acc, crc8Byte_right_inj]

theorem crc8From_left_inj {x y : Byte} (d : List Byte) : crc8From x d = crc8From y d ↔ x = y := by
  induction d generalizing x y with
  | nil => rfl
  | cons b d ih => exact ih.trans crc8Byte_left_inj

/-- Another byte in one place changes the fold. -/
theorem crc8From_set_eq_iff {acc b : Byte} {d : List Byte} {j : Nat} (hj : j < d.length) :
    crc8From acc (d.set j b) = crc8From acc d ↔ b = d[j] := by
  induction d generalizing acc j with
  | nil => contradiction
  | cons x d ih =>
    cases j with
    | zero => exact (crc8From_left_inj d).trans crc8Byte_right_inj
    | succ j => exact ih (Nat.lt_of_succ_lt_succ hj)

/-! ### The residue (R143, R144) -/

theorem crc8_concat_eq_zero_iff (p : List Byte) (c : Byte) : crc8 (p ++ [c]) = 0x00#8 ↔ c = crc8 p := by
  rw [crc8, crc8From_append]
  exact crc8Byte_eq_zero_iff

/-- Settles O36: only a byte equal to the accumulator leaves 0. -/
theorem crcEightResidue : Obligations.CrcEightResidue :=
  ⟨fun p => (crc8_concat_eq_zero_iff p _).2 rfl,
    fun p c _ => eq_comm.trans (crc8_concat_eq_zero_iff p c).symm⟩

/-! ### Single-bit errors (R157) -/

theorem addressValid_iff {a : List Byte} : addressValid a = true ↔ crc8 a = 0x00#8 := beq_iff_eq

theorem romBytes_eq_map (a : Rom) : romBytes a = (List.range 8).map (romByte a) := rfl

theorem romByte_xor (a e : Rom) (j : Nat) : romByte (a ^^^ e) j = romByte a j ^^^ romByte e j := BitVec.extractLsb'_xor

/-- Bit index k stands in byte k div 8, and in no other (20_memory.md R52). -/
theorem romByte_single_bit_eq_zero_iff {k : Nat} (hk : k < 64) (j : Nat) : romByte (1#64 <<< k) j = 0x00#8 ↔ j ≠ k / 8 := by
  have hbit (i : Nat) : (romByte (1#64 <<< k) j).getLsbD i = decide (i < 8 ∧ 8 * j + i = k) := by
    rw [← BitVec.twoPow_eq, romByte, BitVec.getLsbD_extractLsb', BitVec.getLsbD_twoPow]
    simp [hk, eq_comm]
  constructor
  · rintro h rfl
    have hset := hbit (k % 8)
    rw [h, decide_eq_true (by omega)] at hset
    simp at hset
  · intro h
    refine BitVec.eq_of_getLsbD_eq fun i _ => ?_
    rw [hbit, decide_eq_false (by omega), BitVec.getLsbD_zero]

/-- Settles O39: the bit changes one byte of the eight, and another byte in one place changes the CRC-8. -/
theorem singleBitErrorsDetected : Obligations.SingleBitErrorsDetected := by
  intro a k hk ha
  have hbyte (j : Nat) : romByte (a ^^^ (1#64 <<< k)) j = romByte a j ↔ j ≠ k / 8 := by
    rw [romByte_xor]
    exact xor_left_eq_self_iff.trans (romByte_single_bit_eq_zero_iff hk j)
  have hset : romBytes (a ^^^ (1#64 <<< k)) = (romBytes a).set (k / 8) (romByte (a ^^^ (1#64 <<< k)) (k / 8)) := by
    refine List.ext_getElem (by simp) fun j hj _ => ?_
    simp only [romBytes_eq_map, List.getElem_set, List.getElem_map, List.getElem_range]
    split
    · next h => rw [h]
    · next h => exact (hbyte j).2 (Ne.symm h)
  have hlt : k / 8 < (romBytes a).length := by
    rw [romBytes_length]
    omega
  rw [← Bool.not_eq_true, addressValid_iff, ← addressValid_iff.1 ha, hset, crc8, crc8, crc8From_set_eq_iff hlt]
  simpa [romBytes_eq_map] using (hbyte (k / 8)).not.2 (by simp)

/-! ### The accumulator commands (R145 to R148) -/

/-- Settles O34: a byte equal to the accumulator leaves 0. -/
theorem crcEightUpdateAndRead : Obligations.CrcEightUpdateAndRead := by
  refine ⟨rfl, fun _ => rfl, fun v s => ⟨rfl, ?_⟩, fun _ => rfl⟩
  rintro rfl
  exact congrArg (fun x => Host.Outcome.next { s with crc8Acc := x }) (crc8Byte_self s.crc8Acc)

theorem exec_crc8Block (d : List Byte) (s : State) :
    exec (.crc8Block d) s = .next { s with crc8Acc := d.foldl crc8Byte s.crc8Acc } := by
  rw [← crc8From_eq_foldl]
  rfl

/-- Settles O35: the second block folds on from the value the first one left. -/
theorem crcEightClearAndBlock : Obligations.CrcEightClearAndBlock := by
  refine ⟨fun _ => rfl, exec_crc8Block, fun d e s hr => ?_⟩
  rw [execAll_pair hr rfl (exec_crc8Block d s) (exec_crc8Block e _), exec_crc8Block, List.foldl_append]

/-! ### The address commands (R155 to R157) -/

theorem exec_addrComplete (a : List Byte) (s : State) : exec (.addrComplete a) s = .next (respond (a ++ [crc8 a]) s) := rfl

theorem exec_addrCheck (a : List Byte) (s : State) :
    exec (.addrCheck a) s = .next (respond [bitByte (addressValid a)] s) := rfl

theorem crc8_eq_foldl (a : List Byte) : crc8 a = a.foldl crc8Byte 0x00#8 := crc8From_eq_foldl _ a

/-- Settles O37: the response is the bytes and their fold from 0x00. -/
theorem addrCompleteResult : Obligations.AddrCompleteResult := by
  refine ⟨fun a ha => ⟨rfl, ?_⟩, fun a s => ?_, by decide +kernel, by decide +kernel⟩
  · have hdec := decode_encode_append (i := .addrComplete a) (decide_eq_true ha) []
    rwa [List.append_nil] at hdec
  · rw [exec_addrComplete, respond, ← List.append_assoc, crc8_eq_foldl]

/-- Settles O38: an address completed with its CRC-8 has residue 0. -/
theorem addrCheckResult : Obligations.AddrCheckResult := by
  refine ⟨fun a s => ?_, fun a s t ha h => ?_⟩
  · simp only [exec_addrCheck, respond, bitByte, addressValid_iff, crc8_eq_foldl]
  · cases h
    refine ⟨a ++ [crc8 a], by simp [ha], rfl, ?_⟩
    have hvalid : addressValid (a ++ [crc8 a]) = true := addressValid_iff.2 ((crc8_concat_eq_zero_iff a _).2 rfl)
    rw [exec_addrCheck, hvalid]
    rfl

end Sys2Proof.Machine

/-! ## CRC-16 (43_crc16.md) -/

namespace Sys2Proof.Machine

/-! ### The two bytes of a 16-bit value, in numbers (20_memory.md R55) -/

theorem toNat_lowByte (v : Word16) : (lowByte v).toNat = v.toNat % 256 := by
  simp [lowByte]

theorem lowByte_eq_ofNat (v : Word16) : lowByte v = BitVec.ofNat 8 (v.toNat % 256) := by
  apply BitVec.eq_of_toNat_eq
  simp [lowByte]

theorem highByte_eq_ofNat (v : Word16) : highByte v = BitVec.ofNat 8 (v.toNat / 256) := by
  apply BitVec.eq_of_toNat_eq
  simp [highByte, Nat.shiftRight_eq_div_pow]

theorem wordBytes_eq_ofNat (v : Word16) :
    wordBytes v = [BitVec.ofNat 8 (v.toNat % 256), BitVec.ofNat 8 (v.toNat / 256)] := by
  rw [wordBytes, lowByte_eq_ofNat, highByte_eq_ofNat]

theorem appendBytes_eq_ofNat (v : Word16) :
    appendBytes v = [BitVec.ofNat 8 ((65535 - v.toNat) % 256), BitVec.ofNat 8 ((65535 - v.toNat) / 256)] := by
  have hinv : v ^^^ 0xFFFF#16 = ~~~v := BitVec.xor_allOnes
  rw [appendBytes, wordBytes_eq_ofNat, hinv, BitVec.toNat_not]

/-! ### The parity of the nibbles and the byte step (R172, R173) -/

/-- The entries of ODDPARITY (R173). -/
theorem oddParity_eq_xor (x : BitVec 4) :
    oddParity x = (x.getLsbD 0 ^^ x.getLsbD 1 ^^ x.getLsbD 2 ^^ x.getLsbD 3) := by
  revert x; decide

/-- Whether 0xC001 is injected: the parities of the two nibbles differ. -/
def nibbleParitiesDiffer (c : Byte) : Bool := oddParity (c.extractLsb' 0 4) ^^ oddParity (c.extractLsb' 4 4)

theorem parityInjection_eq (c : Byte) :
    parityInjection c = if nibbleParitiesDiffer c then 0xC001#16 else 0x0000#16 := rfl

theorem oddParity_extractLsb' (c : Byte) (k : Nat) : oddParity (c.extractLsb' k 4) =
    (c.toNat.testBit k ^^ c.toNat.testBit (k + 1) ^^ c.toNat.testBit (k + 2) ^^ c.toNat.testBit (k + 3)) := by
  simp [oddParity_eq_xor, BitVec.testBit_toNat]

theorem nibbleParitiesDiffer_iff (c : Byte) : nibbleParitiesDiffer c = true ↔
    (c.toNat.testBit 0 ^^ c.toNat.testBit 1 ^^ c.toNat.testBit 2 ^^ c.toNat.testBit 3) ≠
      (c.toNat.testBit 4 ^^ c.toNat.testBit 5 ^^ c.toNat.testBit 6 ^^ c.toNat.testBit 7) := by
  rw [nibbleParitiesDiffer, oddParity_extractLsb', oddParity_extractLsb']
  exact bne_iff_ne

/-- A byte shifted left by at most 8 loses no bit (R172). -/
theorem toNat_setWidth_shiftLeft (c : Byte) {k : Nat} (hk : k ≤ 8) :
    (c.setWidth 16 <<< k).toNat = c.toNat * 2 ^ k := by
  have hc : c.toNat < 2 ^ 8 := c.isLt
  have hlt : c.toNat * 2 ^ k < 2 ^ 16 := by
    calc c.toNat * 2 ^ k < 2 ^ 8 * 2 ^ k := by gcongr
      _ ≤ 2 ^ 8 * 2 ^ 8 := by gcongr; decide
  rw [BitVec.toNat_shiftLeft, BitVec.toNat_setWidth_of_le (by decide), Nat.shiftLeft_eq, Nat.mod_eq_of_lt hlt]

/-- Settles O40: each injection of the XORed byte in numbers. -/
theorem crcSixteenByteStep : Obligations.CrcSixteenByteStep := by
  intro crc b
  refine ⟨(b ^^^ lowByte crc).toNat, by rw [BitVec.toNat_xor, toNat_lowByte], ?_⟩
  rw [crc16Byte]
  generalize b ^^^ lowByte crc = c
  have hhigh : (crc >>> 8).toNat = crc.toNat / 256 := by
    rw [BitVec.toNat_ushiftRight, Nat.shiftRight_eq_div_pow]
  simp only [crc16Inject, BitVec.toNat_xor, hhigh, toNat_setWidth_shiftLeft c (show 6 ≤ 8 by decide),
    toNat_setWidth_shiftLeft c (show 7 ≤ 8 by decide), parityInjection_eq, nibbleParitiesDiffer_iff, apply_ite BitVec.toNat]
  rfl

/-! ### The bitwise form: both sides are linear, and agree on the words with one bit (R174) -/

/-- A function of words that carries XOR to XOR. -/
def XorLinear {m n : Nat} (f : BitVec m → BitVec n) : Prop := ∀ x y, f (x ^^^ y) = f x ^^^ f y

section XorLinear

variable {m n : Nat} {f g : BitVec m → BitVec n}

theorem XorLinear.zero (hf : XorLinear f) : f 0 = 0 := by
  simpa using hf 0 0

theorem XorLinear.iterate {f : BitVec n → BitVec n} (hf : XorLinear f) (k : Nat) : XorLinear f^[k] := by
  induction k with
  | zero => exact fun _ _ => rfl
  | succ k ih =>
    intro x y
    simp only [Function.iterate_succ_apply, hf x y, ih _ _]

/-- Linear functions that agree on the words with one bit agree on the words with no bit from `k` on, one more bit at a time. -/
theorem XorLinear.eq_of_bits_below (hf : XorLinear f) (hg : XorLinear g)
    (h : ∀ i < m, f (BitVec.twoPow m i) = g (BitVec.twoPow m i)) (k : Nat) (hk : k ≤ m) (x : BitVec m)
    (hx : ∀ i, k ≤ i → x.getLsbD i = false) : f x = g x := by
  induction k generalizing x with
  | zero =>
    obtain rfl : x = 0 := BitVec.eq_of_getLsbD_eq fun i _ => by simp [hx i (Nat.zero_le i)]
    rw [hf.zero, hg.zero]
  | succ k ih =>
    cases hbit : x.getLsbD k with
    | false =>
      refine ih (Nat.le_of_succ_le hk) x fun i hi => ?_
      obtain rfl | hlt := Nat.eq_or_lt_of_le hi
      · exact hbit
      · exact hx i hlt
    | true =>
      have hrest : f (x ^^^ BitVec.twoPow m k) = g (x ^^^ BitVec.twoPow m k) := by
        refine ih (Nat.le_of_succ_le hk) _ fun i hi => ?_
        obtain rfl | hlt := Nat.eq_or_lt_of_le hi
        · simp [hbit, Nat.lt_of_succ_le hk]
        · simp [hx i hlt, BitVec.getLsbD_twoPow, hlt.ne]
      rw [hf, hg, h k hk] at hrest
      exact (BitVec.xor_left_inj _).1 hrest

/-- Linear functions are equal when they agree on the words with one bit. -/
theorem XorLinear.eq_of_twoPow (hf : XorLinear f) (hg : XorLinear g)
    (h : ∀ i < m, f (BitVec.twoPow m i) = g (BitVec.twoPow m i)) (x : BitVec m) : f x = g x :=
  hf.eq_of_bits_below hg h m le_rfl x fun _ hi => BitVec.getLsbD_of_ge _ _ hi

theorem XorLinear.xor (hf : XorLinear f) (hg : XorLinear g) : XorLinear fun x => f x ^^^ g x := by
  intro x y
  simp only [hf x y, hg x y]
  ac_rfl

theorem XorLinear.comp {l : Nat} {g : BitVec l → BitVec m} (hf : XorLinear f) (hg : XorLinear g) :
    XorLinear fun x => f (g x) := by
  intro x y
  simp only [hg x y, hf _ _]

theorem xorLinear_shiftRight (k : Nat) : XorLinear fun x : BitVec n => x >>> k :=
  fun x y => BitVec.ushiftRight_xor_distrib x y k

theorem xorLinear_shiftLeft (k : Nat) : XorLinear fun x : BitVec n => x <<< k :=
  fun x y => BitVec.shiftLeft_xor_distrib x y k

theorem xorLinear_setWidth : XorLinear fun x : BitVec m => x.setWidth n :=
  fun _ _ => BitVec.setWidth_xor

/-- A constant injected on a parity of the bits. -/
theorem xorLinear_ite {p : BitVec m → Bool} (hp : ∀ x y, p (x ^^^ y) = (p x ^^ p y)) (v : BitVec n) :
    XorLinear fun x => if p x then v else 0 := by
  intro x y
  simp only [hp]
  cases p x <;> cases p y <;> simp

end XorLinear

theorem oddParity_xor (x y : BitVec 4) : oddParity (x ^^^ y) = (oddParity x ^^ oddParity y) := by
  simp only [oddParity_eq_xor, BitVec.getLsbD_xor, Bool.xor_assoc, Bool.xor_left_comm]

theorem nibbleParitiesDiffer_xor (x y : Byte) :
    nibbleParitiesDiffer (x ^^^ y) = (nibbleParitiesDiffer x ^^ nibbleParitiesDiffer y) := by
  simp only [nibbleParitiesDiffer, BitVec.extractLsb'_xor, oddParity_xor, Bool.xor_assoc, Bool.xor_left_comm]

/-- The byte step once the byte is XORed into the value: the injected byte is then the value's own low byte. -/
def crc16Shift (x : Word16) : Word16 := crc16Inject x (lowByte x)

theorem crc16Byte_eq_crc16Shift (crc : Word16) (b : Byte) : crc16Byte crc b = crc16Shift (crc ^^^ b.setWidth 16) := by
  have hlow : lowByte (b.setWidth 16) = b := by
    rw [lowByte, ← BitVec.setWidth_eq_extractLsb' (by decide), BitVec.setWidth_setWidth_of_le _ (by decide), BitVec.setWidth_eq]
  have hhigh : b.setWidth 16 >>> 8 = 0#16 := by
    ext i
    simp
  rw [crc16Byte, crc16Shift, crc16Inject_eq crc, crc16Inject_eq (crc ^^^ _), lowByte_xor, hlow, BitVec.xor_comm b,
    BitVec.ushiftRight_xor_distrib, hhigh, BitVec.xor_zero]

theorem crc16Shift_xorLinear : XorLinear crc16Shift := by
  have hlow : XorLinear lowByte := lowByte_xor
  have hparity : XorLinear parityInjection := xorLinear_ite nibbleParitiesDiffer_xor 0xC001#16
  have hbyte (k : Nat) : XorLinear fun x : Word16 => (lowByte x).setWidth 16 <<< k :=
    (xorLinear_shiftLeft k).comp (xorLinear_setWidth.comp hlow)
  exact (((xorLinear_shiftRight 8).xor (hparity.comp hlow)).xor (hbyte 6)).xor (hbyte 7)

/-- One iteration of the bitwise form (R174). -/
def crc16Iteration (x : Word16) : Word16 := (x >>> 1) ^^^ (if x.getLsbD 0 then 0xA001#16 else 0x0000#16)

theorem crc16Iteration_xorLinear : XorLinear crc16Iteration :=
  (xorLinear_shiftRight 1).xor (xorLinear_ite (fun _ _ => BitVec.getLsbD_xor) 0xA001#16)

theorem crc16Shift_eq_iterate (x : Word16) : crc16Shift x = crc16Iteration^[8] x :=
  crc16Shift_xorLinear.eq_of_twoPow (crc16Iteration_xorLinear.iterate 8) (by decide) x

/-- Settles O41: the byte step shifts the value with the byte XORed in, and eight iterations do the same. -/
theorem crcSixteenBitwiseForm : Obligations.CrcSixteenBitwiseForm := by
  intro crc b
  rw [crc16Byte_eq_crc16Shift, crc16Shift_eq_iterate]
  rfl

/-! ### The residue (R184) -/

/-- Settles O45: the inverted bytes inject 0xFF and 0xBF, whatever value they end. -/
theorem crcSixteenResidue : Obligations.CrcSixteenResidue := crc16_append_residue

/-! ### The CRC16_ACC commands (R176 to R179, R183, R185) -/

/-- Settles O42: the model's fold is the library's, and the response is the two bytes of the value. -/
theorem crcSixteenBlockAndRead : Obligations.CrcSixteenBlockAndRead := by
  refine ⟨rfl, fun _ => rfl, fun d s => ?_, fun s => ?_⟩
  · rw [← crc16_eq_foldl]
    exact ⟨rfl, rfl⟩
  · rw [← wordBytes_eq_ofNat]
    rfl

/-- A byte equal to the low byte injects nothing (R177). -/
theorem crc16Byte_lowByte (crc : Word16) : crc16Byte crc (lowByte crc) = crc >>> 8 := by
  have hzero : crc16Inject 0 0x00#8 = 0#16 := by decide
  rw [crc16Byte, BitVec.xor_self, crc16Inject_eq, hzero, BitVec.xor_zero]

/-- Settles O43: the seed is read back from its two bytes, and a byte equal to the low byte injects nothing. -/
theorem crcSixteenSeedAndUpdate : Obligations.CrcSixteenSeedAndUpdate := by
  refine ⟨fun seed rest => ?_, fun _ _ => rfl, fun v s => ⟨rfl, fun hv => ?_⟩, crc16_append⟩
  · have hdec := decode_encode_append (i := .crc16Seed seed) rfl rest
    rwa [encode, Instr.operandBytes, wordBytes_eq_ofNat] at hdec
  · obtain rfl : v = lowByte s.crc16Acc := BitVec.eq_of_toNat_eq (hv.trans (toNat_lowByte _).symm)
    rw [← crc16Byte_lowByte]
    rfl

/-- Settles O44: the inverted value is 65535 minus the value. -/
theorem crcSixteenAppendAndCheck : Obligations.CrcSixteenAppendAndCheck := by
  refine ⟨fun s => ?_, fun s => ?_⟩
  · rw [← appendBytes_eq_ofNat]
    rfl
  · have hvalid : blockValid s.crc16Acc = true ↔ s.crc16Acc.toNat = 0xB001 := beq_iff_eq.trans BitVec.toNat_inj.symm
    simp only [exec, execCrc16Check, respond, bitByte, hvalid]

end Sys2Proof.Machine

/-! ## A search pass: its slots and its end (44_rom_search.md R203 to R216) -/

namespace Sys2Proof.Machine

/-! ### One bit index -/

/-- The branch rule at a collision (R209). -/
theorem branchTaken_collision (last : Disc) (lastRom : Rom) (i : Nat) :
    BranchTaken last lastRom i (false, false) (collisionBranch (i + 1) last (lastRom.getLsbD i)) := by
  refine .inr (.inr ⟨rfl, ?_⟩)
  unfold collisionBranch
  split
  next h => exact .inl ⟨h, rfl⟩
  next =>
    split
    next h => exact .inr (.inl ⟨h, rfl⟩)
    next => exact .inr (.inr ⟨by omega, rfl⟩)

/-- NEXT_DISC after bit index `i`: a collision resolved to 1 records its position (R209). -/
def discStep (i : Nat) (pair : Bool × Bool) (d : Bool) (next : Disc) : Disc :=
  if pair = (false, false) ∧ d = true then BitVec.ofNat 7 (i + 1) else next

theorem chooseBit_collision (i : Nat) (last next : Disc) (prev : Bool) :
    chooseBit false false (i + 1) last prev next =
      some (collisionBranch (i + 1) last prev, discStep i (false, false) (collisionBranch (i + 1) last prev) next) := by
  simp only [chooseBit, discStep]
  cases collisionBranch (i + 1) last prev <;> rfl

/-- No bit is chosen at `(1,1)` only (R208). -/
theorem chooseBit_eq_none {b0 b1 prev : Bool} {i : Nat} {last next : Disc}
    (h : chooseBit b0 b1 (i + 1) last prev next = none) : b0 = true ∧ b1 = true := by
  match b0, b1 with
  | true, true => exact ⟨rfl, rfl⟩
  | false, true | true, false => cases h
  | false, false => rw [chooseBit_collision] at h; cases h

/-- A chosen bit is the branch of the rule, and the record is that of its bit index (R207, R209). -/
theorem branchTaken_of_chooseBit {b0 b1 d : Bool} {i : Nat} {last next next' : Disc} {lastRom : Rom}
    (h : chooseBit b0 b1 (i + 1) last (lastRom.getLsbD i) next = some (d, next')) :
    BranchTaken last lastRom i (b0, b1) d ∧ next' = discStep i (b0, b1) d next := by
  match b0, b1 with
  | true, true => cases h
  | false, true => cases h; exact ⟨.inl ⟨rfl, rfl⟩, rfl⟩
  | true, false => cases h; exact ⟨.inr (.inl ⟨rfl, rfl⟩), rfl⟩
  | false, false =>
    rw [chooseBit_collision] at h
    cases h
    exact ⟨branchTaken_collision last lastRom i, rfl⟩

/-! ### The bit indices of a pass -/

/-- The branch rule holds at each bit index from `i` on: the reads are `pairs`, the bits written those of `rom`. -/
def BranchesTaken (last : Disc) (lastRom rom : Rom) : Nat → List (Bool × Bool) → Prop
  | _, [] => True
  | i, pair :: rest => BranchTaken last lastRom i pair (rom.getLsbD i) ∧ BranchesTaken last lastRom rom (i + 1) rest

theorem BranchesTaken.branchTaken {last : Disc} {lastRom rom : Rom} {i k : Nat} {pair : Bool × Bool}
    {pairs : List (Bool × Bool)} (h : BranchesTaken last lastRom rom i pairs) (hk : pairs[k]? = some pair) :
    BranchTaken last lastRom (i + k) pair (rom.getLsbD (i + k)) := by
  induction pairs generalizing i k with
  | nil => cases hk
  | cons p ps ih =>
    cases k with
    | zero => cases hk; exact h.1
    | succ k =>
      have hrec := ih h.2 hk
      rwa [Nat.add_right_comm] at hrec

/-- NEXT_DISC after the bit indices from `i` on, by the reads `pairs` and the bits of `rom` written (R209). -/
def discAfter (rom : Rom) : Nat → List (Bool × Bool) → Disc → Disc
  | _, [], next => next
  | i, pair :: rest, next => discAfter rom (i + 1) rest (discStep i pair (rom.getLsbD i) next)

/-- The loop of a pass: it makes the slots of `pairs`, and ends at a `(1,1)` or after its last bit index. -/
theorem searchBits_cases (n i : Nat) (rom : Rom) (d : Disc) (s : State) (hin : i + n ≤ 64) :
    ∃ (pairs : List (Bool × Bool)) (rom' : Rom), (∀ j < i, rom'.getLsbD j = rom.getLsbD j) ∧
      BranchesTaken s.lastDisc s.lastRom rom' i pairs ∧
      ((pairs.length < n ∧ (searchBits n i rom d s).1 = none ∧
          BusRun s (searchSlots rom' i pairs ++ [.read true, .read true]) (searchBits n i rom d s).2) ∨
        (pairs.length = n ∧ (searchBits n i rom d s).1 = some (rom', discAfter rom' i pairs d) ∧
          BusRun s (searchSlots rom' i pairs) (searchBits n i rom d s).2)) := by
  induction n generalizing i rom d s with
  | zero => exact ⟨[], rom, fun _ _ => rfl, trivial, .inr ⟨rfl, rfl, BusRun.refl s⟩⟩
  | succ n ih =>
    have hreads := (bcReadBit_busRun s).trans (bcReadBit_busRun (bcReadBit s).2)
    cases hc : chooseBit (bcReadBit s).1 (bcReadBit (bcReadBit s).2).1 (i + 1) s.lastDisc (s.lastRom.getLsbD i) d with
    | none =>
      obtain ⟨h0, h1⟩ := chooseBit_eq_none hc
      rw [h0, h1] at hreads
      refine ⟨[], rom, fun _ _ => rfl, trivial, .inl ⟨Nat.succ_pos n, ?_, ?_⟩⟩ <;> simp only [searchBits, hc]
      exact hreads
    | some chosen =>
      obtain ⟨b, next⟩ := chosen
      obtain ⟨hbranch, hnext⟩ := branchTaken_of_chooseBit hc
      have hslots := hreads.trans (bcWriteBit_busRun b _)
      obtain ⟨pairs, rom', hbits, hrest, hend⟩ :=
        ih (i + 1) (setRomBit rom i b) next (bcWriteBit b (bcReadBit (bcReadBit s).2).2) (by omega)
      have hbit : rom'.getLsbD i = b := by
        rw [hbits i (Nat.lt_succ_self i), getLsbD_setRomBit rom i i b (by omega), if_pos rfl]
      subst hbit hnext
      refine ⟨_ :: pairs, rom', fun j hj => ?_, ⟨hbranch, hrest⟩, ?_⟩
      · rw [hbits j (by omega), getLsbD_setRomBit rom i j _ (by omega), if_neg (by omega)]
      · simp only [searchBits, hc, List.length_cons, Nat.add_lt_add_iff_right, Nat.add_right_cancel_iff]
        obtain ⟨hlen, hans, hrun⟩ | ⟨hlen, hans, hrun⟩ := hend
        · exact .inl ⟨hlen, hans, hslots.trans hrun⟩
        · exact .inr ⟨hlen, hans, hslots.trans hrun⟩

/-- One bit index keeps the record, or records its own position: it does so exactly at a collision resolved to 1 (R209). -/
theorem discStep_cases {i : Nat} (pair : Bool × Bool) (d : Bool) {next : Disc} (hi : i < 64) :
    (¬ (pair = (false, false) ∧ d = true) ∧ discStep i pair d next = next) ∨
      ((pair = (false, false) ∧ d = true) ∧ (discStep i pair d next).toNat = i + 1) := by
  by_cases hone : pair = (false, false) ∧ d = true
  · refine .inr ⟨hone, ?_⟩
    rw [discStep, if_pos hone, BitVec.toNat_ofNat]
    omega
  · exact .inl ⟨hone, if_neg hone⟩

/-- The recorded position is an old one or that of a collision resolved to 1, and none of these is beyond it (R209). -/
theorem discAfter_spec {rom : Rom} {i : Nat} {pairs : List (Bool × Bool)} {d : Disc} (hlen : i + pairs.length ≤ 64)
    (hd : d.toNat ≤ i) :
    (discAfter rom i pairs d = d ∨ ∃ k, (discAfter rom i pairs d).toNat = i + k + 1 ∧ pairs[k]? = some (false, false) ∧
      rom.getLsbD (i + k) = true) ∧ d.toNat ≤ (discAfter rom i pairs d).toNat ∧
    ∀ k, pairs[k]? = some (false, false) → rom.getLsbD (i + k) = true → i + k + 1 ≤ (discAfter rom i pairs d).toNat := by
  induction pairs generalizing i d with
  | nil => exact ⟨.inl rfl, le_rfl, by simp⟩
  | cons pair pairs ih =>
    rw [List.length_cons] at hlen
    have hshift (k : Nat) : i + 1 + k = i + (k + 1) := by omega
    rw [discAfter]
    obtain ⟨hone, hstep⟩ | ⟨⟨rfl, hbit⟩, hstep⟩ := discStep_cases (next := d) pair (rom.getLsbD i) (by omega : i < 64)
    · rw [hstep]
      obtain ⟨hold, hle, hmax⟩ := ih (i := i + 1) (d := d) (by omega) (by omega)
      simp only [hshift] at hold hmax
      refine ⟨hold.imp_right fun ⟨k, hk⟩ => ⟨k + 1, hk⟩, hle, fun k hk hbit => ?_⟩
      cases k with
      | zero => exact absurd ⟨Option.some.inj hk, hbit⟩ hone
      | succ k => exact hmax k hk hbit
    · obtain ⟨hold, hle, hmax⟩ := ih (i := i + 1) (by omega) hstep.le
      simp only [hshift] at hold hmax
      refine ⟨.inr ?_, by omega, fun k hk hbit' => ?_⟩
      · obtain hold | ⟨k, hk⟩ := hold
        · exact ⟨0, by rw [hold, hstep], rfl, hbit⟩
        · exact ⟨k + 1, hk⟩
      · cases k with
        | zero => omega
        | succ k => exact hmax k hk hbit'

/-! ### The whole pass -/

/-- From `s` to `u` a pass met presence, sent SEARCH-ROM and made `slots`: PF is 0, and nothing else but the bus side
differs (R204 to R206). -/
structure SearchRun (s : State) (slots : List Transaction) (u : State) : Prop where
  /-- registers, decoder, ports and MAX_PASSES are as before, but for PF -/
  only : u = { s with
    pf := false, busLog := s.busLog ++ searchOpening ++ slots, bus := u.bus, freeNext := u.freeNext }
  /-- the answers to the slots are the environment's -/
  agrees : agreesWith (busAfter s.bus searchOpening) slots
  /-- the environment has seen exactly these transactions -/
  bus : u.bus = busAfter s.bus (searchOpening ++ slots)

theorem SearchRun.pf {s u : State} {slots : List Transaction} (h : SearchRun s slots u) : u.pf = false := by
  rw [h.only]

theorem SearchRun.hostOut {s u : State} {slots : List Transaction} (h : SearchRun s slots u) : u.hostOut = s.hostOut := by
  rw [h.only]

theorem SearchRun.busLog {s u : State} {slots : List Transaction} (h : SearchRun s slots u) :
    u.busLog = s.busLog ++ searchOpening ++ slots := by
  rw [h.only]

/-- All 64 bit indices make 201 transactions (R360). -/
theorem SearchRun.length_of_completed {s u : State} {rom : Rom} {pairs : List (Bool × Bool)} (hlen : pairs.length = 64)
    (h : SearchRun s (searchSlots rom 0 pairs) u) : u.busLog.length = s.busLog.length + 201 := by
  simp [h.busLog, searchOpening, hlen]

/-- The reset with presence and the command stand ahead of the slots (R204, R205). -/
theorem BusRun.searchRun {s u : State} {slots : List Transaction} (hp : (bcReset s).1 = false)
    (h : BusRun (writeByteBits romSearchCommand (passReset s)) slots u) : SearchRun s slots u := by
  have hrun := (writeByteBits_busRun romSearchCommand (passReset s)).trans h
  have hlog : u.busLog = s.busLog ++ searchOpening ++ slots := by
    rw [hrun.log, passReset_busLog, hp, searchOpening]
    simp [byteBits, romSearchCommand]
  have hbus : (writeByteBits romSearchCommand (passReset s)).bus = busAfter s.bus searchOpening :=
    (writeByteBits_busRun romSearchCommand (passReset s)).bus
  refine ⟨?_, hbus ▸ h.agrees, by rw [h.bus, hbus, busAfter_append]⟩
  calc u = { passReset s with bus := u.bus, busLog := u.busLog, freeNext := u.freeNext } := hrun.only
    _ = _ := by rw [hlog, passReset, hp]; rfl

/-- The two ways a pass with presence ends: at a `(1,1)` (R213), or after all 64 bit indices (R215). -/
theorem pass_cases_of_presence {s : State} (hp : (bcReset s).1 = false) :
    ∃ (pairs : List (Bool × Bool)) (rom : Rom) (u : State), BranchesTaken s.lastDisc s.lastRom rom 0 pairs ∧
      ((pairs.length < 64 ∧ runPass s = ⟨.searchAbort, 0#64, failPass u⟩ ∧
          SearchRun s (searchSlots rom 0 pairs ++ [.read true, .read true]) u) ∨
        (pairs.length = 64 ∧ runPass s = ⟨romStatus rom, rom, completePass rom (discAfter rom 0 pairs 0#7) u⟩ ∧
          SearchRun s (searchSlots rom 0 pairs) u)) := by
  have hkeep := (writeByteBits_busRun romSearchCommand (passReset s)).only
  have hdisc : (writeByteBits romSearchCommand (passReset s)).lastDisc = s.lastDisc :=
    (congrArg State.lastDisc hkeep :)
  have hrom : (writeByteBits romSearchCommand (passReset s)).lastRom = s.lastRom :=
    (congrArg State.lastRom hkeep :)
  have hpass : runPass s = finishPass (searchBits 64 0 0#64 0#7 (writeByteBits romSearchCommand (passReset s))) := by
    simp [runPass, hp]
  obtain ⟨pairs, rom, -, hbranch, hend⟩ :=
    searchBits_cases 64 0 0#64 0#7 (writeByteBits romSearchCommand (passReset s)) le_rfl
  rw [hdisc, hrom] at hbranch
  rw [hpass]
  generalize searchBits 64 0 0#64 0#7 (writeByteBits romSearchCommand (passReset s)) = r at hend
  obtain ⟨answer, u⟩ := r
  obtain ⟨hlen, rfl, hrun⟩ | ⟨hlen, rfl, hrun⟩ := hend
  · exact ⟨pairs, rom, u, hbranch, .inl ⟨hlen, rfl, hrun.searchRun hp⟩⟩
  · exact ⟨pairs, rom, u, hbranch, .inr ⟨hlen, rfl, hrun.searchRun hp⟩⟩

theorem runPass_of_noPresence {s : State} (hp : (bcReset s).1 = true) :
    runPass s = ⟨.busFault, 0#64, failPass (passReset s)⟩ := by
  simp [runPass, hp]

theorem exec_searchPass (s : State) :
    exec .searchPass s = .next (respond (passResponse (runPass s)) (runPass s).state) := rfl

/-! ### The response of a pass (R216) -/

theorem romBytes_zero : romBytes 0#64 = List.replicate 8 0x00#8 := by decide

theorem disc_byte_eq_ofNat (d : Disc) : d.setWidth 8 = BitVec.ofNat 8 d.toNat := (BitVec.ofNat_toNat 8 d).symm

/-- A failed pass responds its status and nine zero bytes (R212, R213). -/
theorem passResponse_failPass (status : Status) (u : State) :
    passResponse ⟨status, 0#64, failPass u⟩ = statusCode status :: List.replicate 9 0x00#8 := by
  simp only [passResponse, romBytes_zero, failPass_lastDisc]
  rfl

/-- The status byte of a completed pass tells whether the CRC-8 of its address is 0 (R214, R300). -/
theorem romStatus_eq (rom : Rom) :
    romStatus rom = if crc8 (romBytes rom) = 0x00#8 then .ok else .checksumMismatch := by
  simp only [romStatus, addressValid_iff]

theorem statusCode_romStatus (rom : Rom) :
    statusCode (romStatus rom) = if crc8 (romBytes rom) = 0x00#8 then 0x00#8 else 0x03#8 := by
  rw [romStatus_eq, apply_ite statusCode]
  rfl

theorem doneFlag_eq_decide (d : Disc) : doneFlag d = decide (d.toNat = 0) := by
  rw [doneFlag, Bool.beq_eq_decide_eq]
  exact decide_eq_decide.2 BitVec.toNat_inj.symm

/-- Settles O46: the search registers are cleared or responded, and cleared they are nine zero bytes. -/
theorem searchInitAndRead : Obligations.SearchInitAndRead := by
  refine ⟨fun _ => rfl, fun s => ⟨romBytes s.lastRom, romBytes_length _, fun i hi => ?_, ?_⟩, fun s hr => ?_⟩
  · have hbyte : (romBytes s.lastRom).getD (i / 8) 0x00#8 = romByte s.lastRom (i / 8) := by
      have hk : i / 8 < 8 := by omega
      simp [romBytes_eq_map, hk]
    rw [hbyte, getLsbD_romByte _ _ _ (Nat.mod_lt i (by decide)), Nat.div_add_mod]
  · rw [← disc_byte_eq_ofNat]
    rfl
  · refine ⟨_, execAll_pair hr rfl rfl rfl, ?_⟩
    simp only [respond_hostOut, clearSearch_hostOut, searchStateBytes, clearSearch_lastRom, romBytes_zero]
    rfl

/-- Settles O47: nothing follows the reset without presence. -/
theorem searchPassWithoutPresence : Obligations.SearchPassWithoutPresence := by
  intro s hp
  refine ⟨_, exec_searchPass s, ?_⟩
  rw [runPass_of_noPresence hp, passResponse_failPass]
  simp only [respond, failPass, passReset, hp, bcReset_busLog]
  rfl

/-- Settles O48: the pass ends at a `(1,1)` or completes, and its record is the largest collision resolved to 1. -/
theorem searchPassWithPresence : Obligations.SearchPassWithPresence := by
  intro s hp
  obtain ⟨pairs, rom, u, hbranch, hend⟩ := pass_cases_of_presence hp
  refine ⟨_, pairs, rom, exec_searchPass s, fun i pair hi => ?_, ?_⟩
  · simpa using hbranch.branchTaken hi
  obtain ⟨hlen, hpass, hrun⟩ | ⟨hlen, hpass, hrun⟩ := hend <;> rw [hpass]
  · refine .inl ⟨hlen, ?_⟩
    rw [passResponse_failPass, hrun.only, ← List.append_assoc]
    rfl
  · obtain ⟨hold, -, hmax⟩ := discAfter_spec (rom := rom) (i := 0) (d := 0#7) (by omega : 0 + pairs.length ≤ 64) le_rfl
    simp only [Nat.zero_add] at hold hmax
    refine .inr ⟨hlen, ?_, ?_, hmax⟩
    · rw [hrun.only]
      simp only [respond, passResponse, completePass, statusCode_romStatus, disc_byte_eq_ofNat, doneFlag_eq_decide]
    · exact hold.imp_left (congrArg BitVec.toNat)

/-- Settles O49: unanimous reads leave no choice, and the slots of a pass are those of its bit indices. -/
theorem searchPassSlots : Obligations.SearchPassSlots := by
  refine ⟨fun s => ?_, fun population participating i d hi => ?_⟩
  · cases hp : (bcReset s).1 with
    | true =>
      refine ⟨_, [], 0#64, [], exec_searchPass s, .inl ?_⟩
      rw [runPass_of_noPresence hp, respond_busLog, failPass_busLog, passReset_busLog, hp]
    | false =>
      obtain ⟨pairs, rom, u, hbranch, hend⟩ := pass_cases_of_presence hp
      have hforced : ∀ (i : Nat) (pair : Bool × Bool), pairs[i]? = some pair → pair ≠ (true, true) ∧
          (pair = (false, true) → rom.getLsbD i = false) ∧ (pair = (true, false) → rom.getLsbD i = true) := by
        intro i pair hi
        have htaken := hbranch.branchTaken hi
        rw [Nat.zero_add] at htaken
        obtain ⟨rfl, hd⟩ | ⟨rfl, hd⟩ | ⟨rfl, -⟩ := htaken
        · simp [hd]
        · simp [hd]
        · simp
      obtain ⟨hlen, hpass, hrun⟩ | ⟨hlen, hpass, hrun⟩ := hend
      · refine ⟨_, pairs, rom, [.read true, .read true], exec_searchPass s, .inr ⟨?_, .inr ⟨hlen, rfl, ?_⟩, hforced⟩⟩
        · rw [hpass, respond_busLog, failPass_busLog, hrun.busLog, ← List.append_assoc]
        · rw [hpass, passResponse_failPass, respond_hostOut, failPass_hostOut, hrun.hostOut]
          rfl
      · refine ⟨_, pairs, rom, [], exec_searchPass s, .inr ⟨?_, .inl ⟨hlen, rfl⟩, hforced⟩⟩
        rw [hpass, respond_busLog, completePass_busLog, hrun.busLog, List.append_nil]
  · have hphase : afterSearchWrite i d participating = .search (i + 1) .bit (participating.filter fun a => a.getLsbD i == d) :=
      if_pos hi
    simp only [busOnWrite, devicesOnWrite, hphase, beq_eq_decide]

end Sys2Proof.Machine

/-! ## The verdict of a pass, and what a fresh one reads (44_rom_search.md R212 to R217) -/

namespace Sys2Proof.Machine

/-- The row a pass from `s` responds (R216). -/
def passRow (s : State) : PassRow := ⟨(runPass s).status, (runPass s).rom, (runPass s).state.lastDisc⟩

theorem passRow_bytes (s : State) : (passRow s).bytes = passResponse (runPass s) := rfl

/-- The CRC-8 of an address is 0 exactly when its byte 7 is the CRC-8 of the others (R214). -/
theorem crc8_romBytes_eq_zero_iff (rom : Rom) :
    crc8 (romBytes rom) = 0x00#8 ↔ crc8 ((romBytes rom).take 7) = romByte rom 7 :=
  (crc8_concat_eq_zero_iff ((romBytes rom).take 7) (romByte rom 7)).trans eq_comm

/-- Every pass ends without presence, at a `(1,1)`, or with all its 201 transactions and its address (R212 to R215, R360). -/
theorem pass_length_cases (s : State) :
    (((runPass s).status = .busFault ∨ (runPass s).status = .searchAbort) ∧ (runPass s).rom = 0#64 ∧
        (runPass s).state.lastRom = s.lastRom ∧ (runPass s).state.lrv = s.lrv ∧
        (runPass s).state.busLog.length < s.busLog.length + 201) ∨
      ((runPass s).status = romStatus (runPass s).rom ∧ (runPass s).state.lastRom = (runPass s).rom ∧
        (runPass s).state.busLog.length = s.busLog.length + 201) := by
  cases hp : (bcReset s).1 with
  | true => exact .inl (by simp [runPass_of_noPresence hp])
  | false =>
    obtain ⟨pairs, rom, u, -, ⟨hlen, hpass, hrun⟩ | ⟨hlen, hpass, hrun⟩⟩ := pass_cases_of_presence hp <;>
      rw [hpass]
    · refine .inl ⟨.inr rfl, rfl, by rw [hrun.only]; rfl, by rw [hrun.only]; rfl, ?_⟩
      simp [hrun.busLog, searchOpening]
      omega
    · exact .inr ⟨rfl, rfl, SearchRun.length_of_completed (u := u) hlen hrun⟩

/-- Settles O50: only a completed pass makes 201 transactions, and its status is the verdict on its address. -/
theorem completedPassReportsAddress : Obligations.CompletedPassReportsAddress := by
  intro s
  refine ⟨_, passRow s, exec_searchPass s, ?_, rfl, (runPass_sameOutsideSearch s).crc8Acc, ?_⟩
  · rw [respond_hostOut, (runPass_sameOutsideSearch s).hostOut, passRow_bytes]
  simp only [respond_busLog, respond_lastRom, respond_lrv, passRow]
  obtain ⟨hstatus, hrom, hlast, hlrv, hlog⟩ | ⟨hstatus, hlast, hlog⟩ := pass_length_cases s
  · refine ⟨fun h => by omega, ?_, ?_, fun _ => ⟨hrom, hlast, hlrv⟩, ?_⟩ <;>
      obtain h | h := hstatus <;> rw [h] <;> simp
  · simp only [hstatus, romStatus_eq, ne_eq, ← crc8_romBytes_eq_zero_iff]
    refine ⟨fun _ => ⟨hlast, rfl⟩, ?_⟩
    by_cases hcrc : crc8 (romBytes (runPass s).rom) = 0x00#8 <;> simp [hcrc, hlog]

/-! ### A pass from LAST_DISC = 0 reads nothing of LAST_ROM (R217) -/

/-- The same state with another address in LAST_ROM. -/
def State.withLastRom (rom : Rom) (s : State) : State := { s with lastRom := rom }

/-- Beyond LAST_DISC the previous branch is not asked for (R209). -/
theorem collisionBranch_zero (i : Nat) (prev : Bool) : collisionBranch (i + 1) 0#7 prev = true := by
  simp [collisionBranch]

theorem chooseBit_zero (b0 b1 prev prev' : Bool) (i : Nat) (next : Disc) :
    chooseBit b0 b1 (i + 1) 0#7 prev next = chooseBit b0 b1 (i + 1) 0#7 prev' next := by
  simp only [chooseBit, collisionBranch_zero]

theorem searchBits_withLastRom (last : Rom) (n i : Nat) (rom : Rom) (d : Disc) (s : State) (hs : s.lastDisc = 0#7) :
    searchBits n i rom d (s.withLastRom last) =
      ((searchBits n i rom d s).1, (searchBits n i rom d s).2.withLastRom last) := by
  induction n generalizing i rom d s with
  | zero => rfl
  | succ n ih =>
    have hread (u : State) : bcReadBit (u.withLastRom last) = ((bcReadBit u).1, (bcReadBit u).2.withLastRom last) := rfl
    have hwrite (b : Bool) (u : State) : bcWriteBit b (u.withLastRom last) = (bcWriteBit b u).withLastRom last := rfl
    have hdisc : (s.withLastRom last).lastDisc = 0#7 := hs
    simp only [searchBits, hread, hwrite, hdisc, hs,
      chooseBit_zero _ _ ((s.withLastRom last).lastRom.getLsbD i) (s.lastRom.getLsbD i)]
    split
    · rfl
    · exact ih _ _ _ _ hs

/-- With LAST_DISC = 0 the address in LAST_ROM changes nothing of a pass but itself. -/
theorem runPass_withLastRom (last : Rom) (s : State) (hs : s.lastDisc = 0#7) : ∃ last' : Rom,
    runPass (s.withLastRom last) = { runPass s with state := (runPass s).state.withLastRom last' } := by
  have hreset : (bcReset (s.withLastRom last)).1 = (bcReset s).1 := rfl
  cases hp : (bcReset s).1 with
  | true =>
    rw [runPass_of_noPresence hp, runPass_of_noPresence (hreset.trans hp)]
    exact ⟨last, rfl⟩
  | false =>
    have hopen : writeByteBits romSearchCommand (passReset (s.withLastRom last)) =
        (writeByteBits romSearchCommand (passReset s)).withLastRom last := by
      simp only [writeByteBits, writeBits_eq]
      rfl
    have hdisc : (writeByteBits romSearchCommand (passReset s)).lastDisc = 0#7 := by
      rw [writeByteBits, writeBits_eq]
      exact hs
    simp only [runPass, hreset, hp, Bool.false_eq_true, if_false, hopen, searchBits_withLastRom _ _ _ _ _ _ hdisc, finishPass]
    split
    · exact ⟨last, rfl⟩
    · exact ⟨_, rfl⟩

/-- Settles O51: only the final LAST_ROM may differ. -/
theorem freshPassIgnoresLastRom : Obligations.FreshPassIgnoresLastRom := by
  intro s t rom hs ht
  cases ht
  obtain ⟨rom', hpass⟩ := runPass_withLastRom rom s hs
  refine ⟨rom', ?_⟩
  have h := exec_searchPass (s.withLastRom rom)
  rw [hpass] at h
  exact h

end Sys2Proof.Machine

/-! ## A scan as passes one after the other (44_rom_search.md R225 to R228) -/

namespace Sys2Proof.Machine

/-- The state after `k` passes from `s`. -/
def afterPasses : Nat → State → State
  | 0, s => s
  | k + 1, s => afterPasses k (runPass s).state

/-- The rows of `k` passes from `s`, in order. -/
def passRows : Nat → State → List PassRow
  | 0, _ => []
  | k + 1, s => passRow s :: passRows k (runPass s).state

@[simp] theorem passRows_length (k : Nat) (s : State) : (passRows k s).length = k := by
  induction k generalizing s with
  | zero => rfl
  | succ k ih => simp [passRows, ih]

theorem passRows_succ_last (k : Nat) (s : State) :
    passRows (k + 1) s = passRows k s ++ [passRow (afterPasses k s)] := by
  induction k generalizing s with
  | zero => rfl
  | succ k ih => rw [passRows, ih]; rfl

theorem afterPasses_succ_last (k : Nat) (s : State) :
    afterPasses (k + 1) s = (runPass (afterPasses k s)).state := by
  induction k generalizing s with
  | zero => rfl
  | succ k ih => exact ih _

/-- The addresses of the rows with a given status, in the order found (R226). -/
def romsOf (status : Status) (rows : List PassRow) : List Rom :=
  (rows.filter fun r => r.status = status).map PassRow.rom

theorem romsOf_cons (status : Status) (row : PassRow) (rows : List PassRow) :
    romsOf status (row :: rows) = romsOf status [row] ++ romsOf status rows := by
  change romsOf status ([row] ++ rows) = _
  rw [romsOf, List.filter_append, List.map_append]
  rfl

/-- The overall status of a scan whose last pass responded `last` (R225, R227). -/
def scanStatus (last : PassRow) : Status :=
  if last.goesOn then .passLimit else if last.status = .checksumMismatch then .ok else last.status

theorem scanStatus_of_goesOn {last : PassRow} (h : last.goesOn) : scanStatus last = .passLimit := if_pos h

/-- One pass of a scan: its address is listed by its status, and the scan goes on while a branch is left to visit (R225). -/
theorem scanLoop_succ (n : Nat) (valid rejected : List Rom) (s : State) :
    scanLoop (n + 1) valid rejected s =
      if (passRow s).goesOn then
        scanLoop n (valid ++ romsOf .ok [passRow s]) (rejected ++ romsOf .checksumMismatch [passRow s]) (runPass s).state
      else ⟨scanStatus (passRow s), valid ++ romsOf .ok [passRow s], rejected ++ romsOf .checksumMismatch [passRow s],
        (runPass s).state⟩ := by
  by_cases hdisc : (runPass s).state.lastDisc = 0#7 <;> cases hstatus : (runPass s).status <;>
    simp [scanLoop, romsOf, scanStatus, passRow, PassRow.goesOn, hdisc, hstatus]

/-- A scan with at most `n + 1` passes is `k + 1` of them: all but the last left a branch to visit, and so did the last only
if it was the last one allowed (R225, R227). -/
theorem scanLoop_eq_passes (n : Nat) (valid rejected : List Rom) (s : State) : ∃ k ≤ n,
    scanLoop (n + 1) valid rejected s = ⟨scanStatus (passRow (afterPasses k s)), valid ++ romsOf .ok (passRows (k + 1) s),
      rejected ++ romsOf .checksumMismatch (passRows (k + 1) s), afterPasses (k + 1) s⟩ ∧
    (∀ r ∈ passRows k s, r.goesOn) ∧ ((passRow (afterPasses k s)).goesOn → k = n) := by
  induction n generalizing valid rejected s with
  | zero =>
    refine ⟨0, le_rfl, ?_, by simp [passRows], fun _ => rfl⟩
    rw [scanLoop_succ]
    split
    next h => rw [scanLoop, afterPasses, scanStatus_of_goesOn h]; rfl
    next => rfl
  | succ n ih =>
    rw [scanLoop_succ]
    split
    next h =>
      obtain ⟨k, hk, hloop, hrows, hlast⟩ :=
        ih (valid ++ romsOf .ok [passRow s]) (rejected ++ romsOf .checksumMismatch [passRow s]) (runPass s).state
      refine ⟨k + 1, by omega, ?_, List.forall_mem_cons.2 ⟨h, hrows⟩, fun hl => congrArg (· + 1) (hlast hl)⟩
      rw [hloop, List.append_assoc, List.append_assoc, ← romsOf_cons, ← romsOf_cons]
      rfl
    next h => exact ⟨0, Nat.zero_le _, rfl, by simp [passRows], fun hl => absurd hl h⟩

theorem maxPasses_eq_succ (s : State) : ∃ n, s.maxPasses.val = n + 1 :=
  Nat.exists_eq_succ_of_ne_zero (Nat.one_le_iff_ne_zero.1 s.maxPasses.2.1)

/-- A scan is passes from a fresh SearchState, at least one and at most MAX_PASSES (R225, R227). -/
theorem scanBus_eq_passes (s : State) : ∃ k, k + 1 ≤ s.maxPasses.val ∧
    scanBus s = ⟨scanStatus (passRow (afterPasses k (clearSearch s))), romsOf .ok (passRows (k + 1) (clearSearch s)),
      romsOf .checksumMismatch (passRows (k + 1) (clearSearch s)), afterPasses (k + 1) (clearSearch s)⟩ ∧
    (∀ r ∈ passRows k (clearSearch s), r.goesOn) ∧
    ((passRow (afterPasses k (clearSearch s))).goesOn → k + 1 = s.maxPasses.val) := by
  obtain ⟨n, hn⟩ := maxPasses_eq_succ s
  obtain ⟨k, hk, hloop, hrows, hlast⟩ := scanLoop_eq_passes n [] [] (clearSearch s)
  refine ⟨k, by omega, ?_, hrows, fun h => by rw [hn, hlast h]⟩
  rw [scanBus, hn, hloop, List.nil_append, List.nil_append]

theorem exec_scan (s : State) : exec .scan s =
    .next (respond (scanResponse (scanBus s).status (scanBus s).valid (scanBus s).rejected) (scanBus s).state) := rfl

/-- Settles O54: the first pass is the last, and its row lists no address. -/
theorem scanWithoutPresence : Obligations.ScanWithoutPresence := by
  intro s hp
  refine ⟨_, exec_scan s, ?_⟩
  have hpass : runPass (clearSearch s) = ⟨.busFault, 0#64, failPass (passReset (clearSearch s))⟩ :=
    runPass_of_noPresence hp
  have hscan : scanBus s = ⟨.busFault, [], [], failPass (passReset (clearSearch s))⟩ := by
    obtain ⟨n, hn⟩ := maxPasses_eq_succ s
    rw [scanBus, hn, scanLoop]
    simp only [hpass]
  have hp' : (bcReset (clearSearch s)).1 = true := hp
  rw [hscan]
  simp only [respond, failPass, passReset, hp', bcReset_busLog]
  rfl

/-! ### The same passes, each by its command (R228) -/

/-- SEARCH_PASS `k` times: the state is that after `k` passes, and the rows are responded one after the other. -/
theorem execAll_searchPasses (k : Nat) (out : List Byte) (s : State) (hr : s.Running) :
    execAll (List.replicate k .searchPass) (respond out s) =
      .next (respond (out ++ (passRows k s).flatMap PassRow.bytes) (afterPasses k s)) := by
  induction k generalizing out s with
  | zero => simp [execAll, passRows, afterPasses]
  | succ k ih =>
    have hexec : exec .searchPass (respond out s) = .next (respond (out ++ (passRow s).bytes) (runPass s).state) := by
      rw [exec_searchPass, (respond_unseen out).runPass, respond_respond]
      rfl
    have hrun : (runPass s).state.Running := (runPass_sameOutsideSearch s).runState.trans hr
    rw [List.replicate_succ, execAll_cons (s := respond out s) _ hr hexec, ih _ _ hrun, List.append_assoc]
    rfl

theorem afterPasses_sameOutsideSearch (k : Nat) (s : State) : SameOutsideSearch s (afterPasses k s) := by
  induction k generalizing s with
  | zero => exact ⟨rfl, rfl, rfl, rfl, rfl, rfl, rfl⟩
  | succ k ih => exact (runPass_sameOutsideSearch s).trans (ih _)

theorem respond_nil (s : State) : respond [] s = s := by simp [respond]

/-- Settles O52: the scan's passes, performed by commands, leave the same state but for the responses. -/
theorem scanIsSteppedPasses : Obligations.ScanIsSteppedPasses := by
  intro s hr
  obtain ⟨k, hk, hscan, hrows, hlast⟩ := scanBus_eq_passes s
  have hout : (afterPasses (k + 1) (clearSearch s)).hostOut = s.hostOut := (afterPasses_sameOutsideSearch _ _).hostOut
  have hall : execAll (List.replicate (k + 1) .searchPass) (clearSearch s) = .next (respond
      ((passRows (k + 1) (clearSearch s)).flatMap PassRow.bytes) (afterPasses (k + 1) (clearSearch s))) := by
    simpa only [respond_nil, List.nil_append] using execAll_searchPasses (k + 1) [] (clearSearch s) hr
  refine ⟨_, respond ((passRows (k + 1) (clearSearch s)).flatMap PassRow.bytes) (afterPasses (k + 1) (clearSearch s)),
    passRows k (clearSearch s), passRow (afterPasses k (clearSearch s)), exec_scan s, ?_, ?_, ?_, hrows, ?_, ?_⟩
  · rwa [passRows_length]
  · rw [execAll_cons _ hr rfl, passRows_length, hall]
  · rw [respond_hostOut, hout, passRows_succ_last]
  · rwa [passRows_length]
  · rw [hscan, respond, hout, passRows_succ_last]
    rfl

end Sys2Proof.Machine

/-! ## The response of a scan, byte by byte (44_rom_search.md R226) -/

namespace Sys2Proof.Machine

/-! ### The bytes -/

theorem romByte_eq_ofNat (a : Rom) (k : Nat) : romByte a k = BitVec.ofNat 8 (a.toNat / 256 ^ k) := by
  apply BitVec.eq_of_toNat_eq
  rw [romByte, BitVec.extractLsb'_toNat, BitVec.toNat_ofNat, Nat.shiftRight_eq_div_pow, Nat.pow_mul]

theorem romBytes_eq_ofFn (a : Rom) : romBytes a = List.ofFn fun k : Fin 8 => BitVec.ofNat 8 (a.toNat / 256 ^ k.val) := by
  simp only [← romByte_eq_ofNat]
  rfl

theorem romListBytes_eq_flatMap (rs : List Rom) :
    romListBytes rs = rs.flatMap fun a => List.ofFn fun k : Fin 8 => BitVec.ofNat 8 (a.toNat / 256 ^ k.val) := by
  induction rs with
  | nil => rfl
  | cons a rs ih => rw [romListBytes, ih, romBytes_eq_ofFn, List.flatMap_cons]

/-! ### How a pass ends, seen on PF and in the history -/

theorem searchSlots_append (rom : Rom) (i : Nat) (xs ys : List (Bool × Bool)) :
    searchSlots rom i (xs ++ ys) = searchSlots rom i xs ++ searchSlots rom (i + xs.length) ys := by
  induction xs generalizing i with
  | nil => rfl
  | cons x xs ih =>
    have hshift : i + 1 + xs.length = i + (xs.length + 1) := by omega
    simp only [List.cons_append, searchSlots, ih, List.length_cons, hshift, List.append_assoc]

/-- The slots of a bit index end with its write (R210). -/
theorem getLast?_searchSlots (rom : Rom) (i : Nat) {pairs : List (Bool × Bool)} (h : pairs ≠ []) :
    ∃ b, (searchSlots rom i pairs).getLast? = some (.write b) := by
  refine ⟨rom.getLsbD (i + (pairs.dropLast).length), ?_⟩
  rw [← List.dropLast_append_getLast h, searchSlots_append, List.dropLast_append_getLast h]
  simp [searchSlots]

/-- The last transaction of a pass and PF tell its three ends apart (R212, R213, R215). -/
theorem pass_end_cases (s : State) :
    ((runPass s).status = .busFault ∧ (runPass s).state.pf = true ∧
        (runPass s).state.busLog.getLast? = some (.reset true)) ∨
      ((runPass s).status = .searchAbort ∧ (runPass s).state.pf = false ∧
        (runPass s).state.busLog.getLast? = some (.read true)) ∨
      ((runPass s).status = romStatus (runPass s).rom ∧ (runPass s).state.pf = false ∧
        (runPass s).state.busLog.getLast? ≠ some (.read true)) := by
  cases hp : (bcReset s).1 with
  | true => exact .inl (by simp [runPass_of_noPresence hp, hp])
  | false =>
    obtain ⟨pairs, rom, u, -, ⟨hlen, hpass, hrun⟩ | ⟨hlen, hpass, hrun⟩⟩ := pass_cases_of_presence hp <;>
      rw [hpass]
    · exact .inr (.inl ⟨rfl, hrun.pf, by simp [hrun.busLog]⟩)
    · obtain ⟨b, hb⟩ := getLast?_searchSlots rom 0 (List.ne_nil_of_length_pos (by omega : 0 < pairs.length))
      exact .inr (.inr ⟨rfl, hrun.pf, by simp [hrun.busLog, List.getLast?_append, hb]⟩)

/-! ### The rows of a scan -/

/-- The verdict in a row is that on its address (R214). -/
theorem passRow_verdict (s : State) :
    ((passRow s).status = .ok → crc8 (romBytes (passRow s).rom) = 0x00#8) ∧
      ((passRow s).status = .checksumMismatch → crc8 (romBytes (passRow s).rom) ≠ 0x00#8) := by
  simp only [passRow]
  obtain ⟨h, -⟩ | ⟨h, -⟩ | ⟨h, -⟩ := pass_end_cases s <;> rw [h]
  · simp
  · simp
  · rw [romStatus_eq]
    split <;> simp_all

theorem eq_passRow_of_mem {r : PassRow} {k : Nat} {s : State} (h : r ∈ passRows k s) : ∃ u, r = passRow u := by
  induction k generalizing s with
  | zero => cases h
  | succ k ih =>
    obtain rfl | h := List.mem_cons.1 h
    · exact ⟨s, rfl⟩
    · exact ih h

theorem mem_romsOf {a : Rom} {status : Status} {rows : List PassRow} (h : a ∈ romsOf status rows) :
    ∃ r ∈ rows, r.status = status ∧ r.rom = a := by
  simpa [romsOf, and_assoc] using h

/-- Every row after which a scan goes on lists one address. -/
theorem romsOf_length_of_goesOn {rows : List PassRow} (h : ∀ r ∈ rows, r.goesOn) :
    (romsOf .ok rows).length + (romsOf .checksumMismatch rows).length = rows.length := by
  induction rows with
  | nil => rfl
  | cons r rows ih =>
    obtain ⟨⟨hstatus, -⟩, hrows⟩ := List.forall_mem_cons.1 h
    have hone : (romsOf .ok [r]).length + (romsOf .checksumMismatch [r]).length = 1 := by
      obtain hs | hs := hstatus <;> simp [romsOf, hs]
    have := ih hrows
    rw [romsOf_cons .ok, romsOf_cons .checksumMismatch, List.length_append, List.length_append, List.length_cons]
    omega

/-- How a scan ends is how its last pass ended, or that this pass left a branch to visit (R225, R227). -/
theorem scanStatus_cases (s : State) :
    (scanStatus (passRow s) = .ok ∧ (runPass s).state.pf = false ∧ (runPass s).state.lastDisc = 0#7 ∧
        (runPass s).state.busLog.getLast? ≠ some (.read true)) ∨
      (scanStatus (passRow s) = .busFault ∧ (runPass s).state.pf = true ∧
        (runPass s).state.busLog.getLast? = some (.reset true)) ∨
      (scanStatus (passRow s) = .searchAbort ∧ (runPass s).state.pf = false ∧
        (runPass s).state.busLog.getLast? = some (.read true)) ∨
      (scanStatus (passRow s) = .passLimit ∧ (runPass s).state.pf = false ∧ (passRow s).goesOn) := by
  obtain ⟨h, hpf, hlog⟩ | ⟨h, hpf, hlog⟩ | ⟨h, hpf, hlog⟩ := pass_end_cases s
  · exact .inr (.inl ⟨by simp [scanStatus, PassRow.goesOn, passRow, h], hpf, hlog⟩)
  · exact .inr (.inr (.inl ⟨by simp [scanStatus, PassRow.goesOn, passRow, h], hpf, hlog⟩))
  · have hverdict : (passRow s).status = .ok ∨ (passRow s).status = .checksumMismatch :=
      (romStatus_cases (runPass s).rom).imp (fun hv => h.trans hv.2) (fun hv => h.trans hv.2)
    by_cases hdisc : (runPass s).state.lastDisc = 0#7
    · have hstop : ¬ (passRow s).goesOn := fun hg => hg.2 hdisc
      refine .inl ⟨?_, hpf, hdisc, hlog⟩
      obtain hv | hv := hverdict <;> simp [scanStatus, if_neg hstop, hv]
    · exact .inr (.inr (.inr ⟨scanStatus_of_goesOn ⟨hverdict, hdisc⟩, hpf, hverdict, hdisc⟩))

/-- The addresses listed for a status are those of rows with it. -/
theorem exists_passRow_of_mem_romsOf {a : Rom} {status : Status} {k : Nat} {s : State} (h : a ∈ romsOf status (passRows k s)) :
    ∃ u, (passRow u).status = status ∧ (passRow u).rom = a := by
  obtain ⟨r, hr, hrow⟩ := mem_romsOf h
  obtain ⟨u, rfl⟩ := eq_passRow_of_mem hr
  exact ⟨u, hrow⟩

/-- Settles O53: the last pass decides the status, and each row lists its address by its verdict. -/
theorem scanResponseBounds : Obligations.ScanResponseBounds := by
  intro s
  obtain ⟨k, hk, hscan, hrows, hlast⟩ := scanBus_eq_passes s
  have hle := scanBus_addresses_le s
  have hmax := s.maxPasses.2.2
  refine ⟨_, (scanBus s).status, statusCode (scanBus s).status, (scanBus s).valid, (scanBus s).rejected, exec_scan s, ?_, ?_,
    ?_, hle, by omega, fun a ha => ?_, fun a ha => ?_⟩
  · rw [respond_hostOut, (scanBus_sameOutsideSearch s).hostOut]
  · simp only [scanResponse, countBytes, romListBytes_eq_flatMap, List.cons_append, List.nil_append, List.append_assoc]
  · have hcount : (passRow (afterPasses k (clearSearch s))).goesOn →
        (scanBus s).valid.length + (scanBus s).rejected.length = s.maxPasses.val := by
      intro hg
      have hall : ∀ r ∈ passRows (k + 1) (clearSearch s), r.goesOn := by
        rw [passRows_succ_last]
        exact List.forall_mem_append.2 ⟨hrows, List.forall_mem_singleton.2 hg⟩
      rw [hscan, romsOf_length_of_goesOn hall, passRows_length, hlast hg]
    have hstate : (scanBus s).state = (runPass (afterPasses k (clearSearch s))).state := by
      rw [hscan, afterPasses_succ_last]
    have hstatus : (scanBus s).status = scanStatus (passRow (afterPasses k (clearSearch s))) := by rw [hscan]
    simp only [respond_pf, respond_lastDisc, respond_busLog, hstate, hstatus]
    obtain ⟨hst, hend⟩ | ⟨hst, hend⟩ | ⟨hst, hend⟩ | ⟨hst, hpf, hg⟩ := scanStatus_cases (afterPasses k (clearSearch s)) <;>
      rw [hst]
    · exact .inl ⟨rfl, rfl, hend⟩
    · exact .inr (.inl ⟨rfl, rfl, hend⟩)
    · exact .inr (.inr (.inl ⟨rfl, rfl, hend⟩))
    · exact .inr (.inr (.inr ⟨rfl, rfl, hpf, hg.2, hcount hg⟩))
  · rw [hscan] at ha
    obtain ⟨u, hstatus, rfl⟩ := exists_passRow_of_mem_romsOf ha
    exact (passRow_verdict u).1 hstatus
  · rw [hscan] at ha
    obtain ⟨u, hstatus, rfl⟩ := exists_passRow_of_mem_romsOf ha
    exact (passRow_verdict u).2 hstatus

end Sys2Proof.Machine

/-! ## A pass over the reference devices (60_exceptions.md R330) -/

namespace Sys2Proof.Machine

/-! ### The devices still participating -/

/-- The devices that share the first `i` bits of `rom`: those that still participate at bit index `i` when these bits were
written (R210, R330). -/
def sharing (population : List Rom) (rom : Rom) (i : Nat) : List Rom :=
  population.filter fun a => decide (∀ j < i, a.getLsbD j = rom.getLsbD j)

theorem mem_sharing {population : List Rom} {rom a : Rom} {i : Nat} :
    a ∈ sharing population rom i ↔ a ∈ population ∧ ∀ j < i, a.getLsbD j = rom.getLsbD j := by
  simp [sharing]

@[simp] theorem sharing_zero (population : List Rom) (rom : Rom) : sharing population rom 0 = population := by
  simp [sharing]

/-- The write of a bit index excludes the devices whose own bit differs (R210, R330). -/
theorem sharing_succ (population : List Rom) (rom : Rom) (i : Nat) :
    (sharing population rom i).filter (fun a => a.getLsbD i == rom.getLsbD i) = sharing population rom (i + 1) := by
  rw [sharing, sharing, List.filter_filter]
  refine List.filter_congr fun a _ => ?_
  rw [Bool.eq_iff_iff]
  simp only [Bool.and_eq_true, beq_iff_eq, decide_eq_true_eq, Nat.forall_lt_succ_right, and_comm]

/-- The two reads of bit index `i` over the participating devices (R330, C3). -/
def wiredPair (participating : List Rom) (i : Nat) : Bool × Bool :=
  (wiredAnd participating i, wiredAndComplement participating i)

theorem wiredAnd_eq_false {participating : List Rom} {i : Nat} :
    wiredAnd participating i = false ↔ ∃ a ∈ participating, a.getLsbD i = false := by
  simp [wiredAnd]

theorem wiredAndComplement_eq_false {participating : List Rom} {i : Nat} :
    wiredAndComplement participating i = false ↔ ∃ a ∈ participating, a.getLsbD i = true := by
  simp [wiredAndComplement]

/-- The branch a pass takes is one that some participating device has (R207, R209). -/
theorem exists_bit_of_branchTaken {participating : List Rom} {i : Nat} {last : Disc} {lastRom : Rom} {d : Bool}
    (h : BranchTaken last lastRom i (wiredPair participating i) d) : ∃ a ∈ participating, a.getLsbD i = d := by
  obtain ⟨hpair, rfl⟩ | ⟨hpair, rfl⟩ | ⟨hpair, -⟩ := h <;> obtain ⟨h0, h1⟩ := Prod.mk.inj hpair
  · exact wiredAnd_eq_false.1 h0
  · exact wiredAndComplement_eq_false.1 h1
  · cases d with
    | false => exact wiredAnd_eq_false.1 h0
    | true => exact wiredAndComplement_eq_false.1 h1

/-! ### The reads of a pass that writes the bits of `rom` -/

/-- Slots that the devices answer: the reads are the wired ANDs over the devices that share the bits written so far, and the
devices are then ready for the next bit index, if there is one (R330). -/
theorem agreesWith_searchSlots {population : List Rom} {rom : Rom} {i : Nat} {pairs : List (Bool × Bool)}
    {tail : List Transaction} (hlen : i + pairs.length ≤ 64)
    (h : agreesWith (.devices population (.search i .bit (sharing population rom i))) (searchSlots rom i pairs ++ tail)) :
    (∀ k pair, pairs[k]? = some pair → pair = wiredPair (sharing population rom (i + k)) (i + k)) ∧
      (i + pairs.length < 64 → agreesWith (.devices population (.search (i + pairs.length) .bit
        (sharing population rom (i + pairs.length)))) tail) := by
  induction pairs generalizing i with
  | nil => exact ⟨by simp, fun _ => h⟩
  | cons p pairs ih =>
    obtain ⟨b0, b1⟩ := p
    obtain ⟨h0, h1, hrest⟩ := h
    rw [List.length_cons] at hlen
    have hfirst : (b0, b1) = wiredPair (sharing population rom i) i := Prod.ext h0.symm h1.symm
    by_cases hi : i + 1 < 64
    · have hphase : afterSearchWrite i (rom.getLsbD i) (sharing population rom i) =
          .search (i + 1) .bit (sharing population rom (i + 1)) := by
        rw [afterSearchWrite, if_pos hi, sharing_succ]
      have hrest' : agreesWith (.devices population (afterSearchWrite i (rom.getLsbD i) (sharing population rom i)))
        (searchSlots rom (i + 1) pairs ++ tail) := hrest
      rw [hphase] at hrest'
      obtain ⟨hpairs, htail⟩ := ih (by omega) hrest'
      have hshift (k : Nat) : i + 1 + k = i + (k + 1) := by omega
      simp only [hshift] at hpairs htail
      refine ⟨fun k pair hk => ?_, htail⟩
      cases k with
      | zero => cases hk; exact hfirst
      | succ k => exact hpairs k pair hk
    · obtain rfl : pairs = [] := List.length_eq_zero_iff.1 (by omega)
      refine ⟨fun k pair hk => ?_, fun hlt => absurd hlt (by simpa using hi)⟩
      cases k with
      | zero => cases hk; exact hfirst
      | succ k => cases hk

/-- The reads of a completed pass that wrote `rom`. -/
def wiredPairs (population : List Rom) (rom : Rom) : List (Bool × Bool) :=
  (List.range 64).map fun i => wiredPair (sharing population rom i) i

theorem getElem?_wiredPairs {population : List Rom} {rom : Rom} {i : Nat} (hi : i < 64) :
    (wiredPairs population rom)[i]? = some (wiredPair (sharing population rom i) i) := by
  simp [wiredPairs, hi]

theorem getElem?_wiredPairs_eq_some {population : List Rom} {rom : Rom} {i : Nat} {pair : Bool × Bool} :
    (wiredPairs population rom)[i]? = some pair ↔ i < 64 ∧ wiredPair (sharing population rom i) i = pair := by
  by_cases hi : i < 64
  · simp [getElem?_wiredPairs hi, hi]
  · simp [wiredPairs, hi]

@[simp] theorem wiredPairs_length (population : List Rom) (rom : Rom) : (wiredPairs population rom).length = 64 := by
  simp [wiredPairs]

theorem eq_wiredPairs {population : List Rom} {rom : Rom} {pairs : List (Bool × Bool)} (hlen : pairs.length = 64)
    (h : ∀ k pair, pairs[k]? = some pair → pair = wiredPair (sharing population rom k) k) :
    pairs = wiredPairs population rom := by
  refine List.ext_getElem (by simp [hlen]) fun k hk _ => ?_
  rw [h k _ (List.getElem?_eq_getElem hk)]
  simp [wiredPairs]

/-! ### A pass over devices completes with the address of one of them -/

/-- The devices on the bus stay the same, whatever is transacted. -/
theorem busAfter_devices (population : List Rom) (phase : DevicePhase) (ts : List Transaction) :
    ∃ phase', busAfter (.devices population phase) ts = .devices population phase' := by
  induction ts generalizing phase with
  | nil => exact ⟨phase, rfl⟩
  | cons t ts ih => cases t <;> exact ih _

/-- At every bit index of a pass some device still participates (R207, R330). -/
theorem sharing_ne_nil {population : List Rom} {rom lastRom : Rom} {last : Disc} {pairs : List (Bool × Bool)}
    (hne : population ≠ []) (hbranch : BranchesTaken last lastRom rom 0 pairs)
    (hpairs : ∀ k pair, pairs[k]? = some pair → pair = wiredPair (sharing population rom k) k) {k : Nat}
    (hk : k ≤ pairs.length) : sharing population rom k ≠ [] := by
  cases k with
  | zero => simpa
  | succ k =>
    have hget := List.getElem?_eq_getElem (show k < pairs.length from hk)
    have htaken := hbranch.branchTaken hget
    rw [hpairs k _ hget, Nat.zero_add] at htaken
    obtain ⟨a, ha, hbit⟩ := exists_bit_of_branchTaken htaken
    refine List.ne_nil_of_mem (a := a) ?_
    rw [← sharing_succ]
    simp [ha, hbit]

/-- No `(1,1)` is read while a device participates (C3). -/
theorem wiredPair_ne_ones {participating : List Rom} (i : Nat) (h : participating ≠ []) :
    wiredPair participating i ≠ (true, true) := by
  intro hpair
  obtain ⟨a, ha⟩ := List.exists_mem_of_ne_nil participating h
  obtain ⟨h0, h1⟩ := Prod.mk.inj hpair
  have hone := List.all_eq_true.1 h0 a ha
  have hzero := List.all_eq_true.1 h1 a ha
  simp [hone] at hzero

theorem eq_of_mem_sharing_64 {population : List Rom} {rom a : Rom} (h : a ∈ sharing population rom 64) : a = rom :=
  BitVec.eq_of_getLsbD_eq (mem_sharing.1 h).2

/-- On devices every pass, from any search state, completes: it reads the wired ANDs and returns the address of one of
them (R203, R330). -/
theorem pass_on_devices {s : State} {population : List Rom} {phase : DevicePhase} (hs : s.bus = .devices population phase)
    (hne : population ≠ []) : ∃ (rom : Rom) (u : State), rom ∈ population ∧
      BranchesTaken s.lastDisc s.lastRom rom 0 (wiredPairs population rom) ∧
      runPass s = ⟨romStatus rom, rom, completePass rom (discAfter rom 0 (wiredPairs population rom) 0#7) u⟩ ∧
      SearchRun s (searchSlots rom 0 (wiredPairs population rom)) u := by
  have hp : (bcReset s).1 = false := by
    obtain ⟨hpf, -⟩ : (bcReset s).1 = population.isEmpty ∧ _ := bcReset_of_fixed (by rw [hs]; rfl)
    simpa [hpf] using hne
  have hopen (rom : Rom) : busAfter s.bus searchOpening = .devices population (.search 0 .bit (sharing population rom 0)) := by
    rw [hs, sharing_zero]
    rfl
  obtain ⟨pairs, rom, u, hbranch, ⟨hlen, hpass, hrun⟩ | ⟨hlen, hpass, hrun⟩⟩ := pass_cases_of_presence hp
  · have hagrees := hrun.agrees
    rw [hopen rom] at hagrees
    obtain ⟨hpairs, htail⟩ := agreesWith_searchSlots (by omega) hagrees
    simp only [Nat.zero_add] at hpairs htail
    obtain ⟨h0, h1, -⟩ := htail hlen
    exact absurd (Prod.ext h0 h1) (wiredPair_ne_ones _ (sharing_ne_nil hne hbranch hpairs le_rfl))
  · have hagrees := hrun.agrees
    rw [hopen rom, ← List.append_nil (searchSlots _ _ _)] at hagrees
    obtain ⟨hpairs, -⟩ := agreesWith_searchSlots (by omega) hagrees
    simp only [Nat.zero_add] at hpairs
    obtain ⟨a, ha⟩ := List.exists_mem_of_ne_nil _ (sharing_ne_nil hne hbranch hpairs hlen.ge)
    obtain rfl := eq_of_mem_sharing_64 ha
    obtain rfl := eq_wiredPairs hlen hpairs
    exact ⟨a, u, (mem_sharing.1 ha).1, hbranch, hpass, hrun⟩

/-- Settles O56: the pass completes with the address of a device. -/
theorem passReturnsADevice : Obligations.PassReturnsADevice := by
  intro s population phase hs hne
  obtain ⟨rom, u, hmem, -, hpass, hrun⟩ := pass_on_devices hs hne
  refine ⟨_, exec_searchPass s, ?_⟩
  have hlen := hrun.length_of_completed (wiredPairs_length _ _)
  rw [hpass]
  exact ⟨hmem, rfl, hrun.pf, hlen⟩

/-- One device answers its own bits and their complements (R330). -/
theorem wiredPair_single (a : Rom) (i : Nat) : wiredPair (sharing [a] a i) i = (a.getLsbD i, !a.getLsbD i) := by
  simp [wiredPair, sharing, wiredAnd, wiredAndComplement]

theorem wiredPairs_single (a : Rom) : wiredPairs [a] a = List.ofFn fun i : Fin 64 => (a.getLsbD i, !a.getLsbD i) := by
  refine List.ext_getElem (by rw [wiredPairs_length, List.length_ofFn]) fun i hi _ => ?_
  simp only [wiredPairs, List.getElem_ofFn, List.getElem_map, List.getElem_range, wiredPair_single]

/-- A bit and its complement are no collision (R209). -/
theorem discAfter_wiredPairs_single (a : Rom) : discAfter a 0 (wiredPairs [a] a) 0#7 = 0#7 := by
  obtain ⟨hold | ⟨k, -, hk, -⟩, -⟩ :=
    discAfter_spec (rom := a) (i := 0) (d := 0#7) (pairs := wiredPairs [a] a) (by simp) le_rfl
  · exact hold
  · obtain ⟨-, hpair⟩ := getElem?_wiredPairs_eq_some.1 hk
    rw [wiredPair_single] at hpair
    obtain ⟨h0, h1⟩ := Prod.mk.inj hpair
    simp [h0] at h1

/-- Settles O55: the one device is the one found, and it reads as no collision. -/
theorem singleDevicePass : Obligations.SingleDevicePass := by
  intro s a phase hs
  obtain ⟨rom, u, hmem, -, hpass, hrun⟩ := pass_on_devices hs (List.cons_ne_nil a [])
  obtain rfl := List.mem_singleton.1 hmem
  have hlen := hrun.length_of_completed (wiredPairs_length _ _)
  rw [discAfter_wiredPairs_single] at hpass
  refine ⟨_, exec_searchPass s, ?_⟩
  rw [hpass, ← wiredPairs_single]
  refine ⟨hrun.busLog, hlen, rfl, rfl, rfl, rfl, hrun.pf, ?_⟩
  rw [respond_hostOut, completePass_hostOut, hrun.hostOut, passResponse, statusCode_romStatus]
  rfl

end Sys2Proof.Machine

/-! ## A scan of the reference devices (44_rom_search.md R219, R225, R226) -/

namespace Sys2Proof.Machine

/-! ### The order in which devices are found -/

/-- `a` and `b` share the bits below bit index `i`, and there `a` has a 1 and `b` a 0. -/
def BranchesOff (i : Nat) (a b : Rom) : Prop :=
  i < 64 ∧ (∀ j < i, a.getLsbD j = b.getLsbD j) ∧ a.getLsbD i = true ∧ b.getLsbD i = false

/-- Two addresses are equal, or one has the 1 where they first differ. -/
theorem eq_or_branchesOff (a b : Rom) : a = b ∨ ∃ i, BranchesOff i a b ∨ BranchesOff i b a := by
  by_cases h : ∃ i < 64, a.getLsbD i ≠ b.getLsbD i
  · obtain ⟨hlt, hne⟩ := Nat.find_spec h
    have hshare (j : Nat) (hj : j < Nat.find h) : a.getLsbD j = b.getLsbD j := by
      by_contra hdiff
      exact Nat.find_min h hj ⟨by omega, hdiff⟩
    refine .inr ⟨Nat.find h, ?_⟩
    cases ha : a.getLsbD (Nat.find h) with
    | true => exact .inl ⟨hlt, hshare, ha, by simpa [ha] using hne⟩
    | false => exact .inr ⟨hlt, fun j hj => (hshare j hj).symm, by simpa [ha] using hne, ha⟩
  · push Not at h
    exact .inl (BitVec.eq_of_getLsbD_eq h)

/-- The first difference decides the order (R219). -/
theorem BranchesOff.foundBefore {i : Nat} {a b : Rom} (h : BranchesOff i a b) : foundBefore a b := by
  obtain ⟨hi, hshare, ha, hb⟩ := h
  have hbit (x : Rom) (k : Nat) (hk : k < 64) : x.reverse.toNat.testBit k = x.getLsbD (63 - k) := by
    rw [BitVec.testBit_toNat, BitVec.getLsbD_reverse, BitVec.getMsbD, decide_eq_true hk, Bool.true_and]
  refine Nat.lt_of_testBit (63 - i) ?_ ?_ fun k hk => ?_
  · rw [hbit b _ (by omega), Nat.sub_sub_self (by omega), hb]
  · rw [hbit a _ (by omega), Nat.sub_sub_self (by omega), ha]
  · by_cases hk64 : k < 64
    · rw [hbit b k hk64, hbit a k hk64, hshare _ (by omega)]
    · have hge (x : Rom) : x.reverse.toNat.testBit k = false := by
        rw [BitVec.testBit_toNat, BitVec.getLsbD_of_ge _ _ (by omega)]
      rw [hge a, hge b]

theorem foundBefore_trans {a b c : Rom} (h : foundBefore a b) (k : foundBefore b c) : foundBefore a c :=
  BitVec.lt_trans k h

theorem foundBefore_irrefl (a : Rom) : ¬ foundBefore a a := BitVec.lt_irrefl _

theorem foundBefore_iff {a b : Rom} : foundBefore a b ↔ ∃ i, BranchesOff i a b := by
  refine ⟨fun h => ?_, fun ⟨i, h⟩ => h.foundBefore⟩
  obtain rfl | ⟨i, hi | hi⟩ := eq_or_branchesOff a b
  · exact absurd h (foundBefore_irrefl a)
  · exact ⟨i, hi⟩
  · exact absurd (foundBefore_trans h hi.foundBefore) (foundBefore_irrefl a)

/-! ### LAST_DISC is the last branch left -/

/-- `d` is the last position at which a device branches off from `rom`, or 0 if none does: what LAST_DISC means after a
completed pass (R209, R215). -/
structure LastBranch (population : List Rom) (rom : Rom) (d : Disc) : Prop where
  /-- a device branches off there -/
  branch : d ≠ 0#7 → ∃ b ∈ population, BranchesOff (d.toNat - 1) rom b
  /-- and none further on -/
  last : ∀ b ∈ population, ∀ i, BranchesOff i rom b → i + 1 ≤ d.toNat

/-- The record of a pass over devices is the last branch left. -/
theorem lastBranch_discAfter {population : List Rom} {rom : Rom} (hrom : rom ∈ population) :
    LastBranch population rom (discAfter rom 0 (wiredPairs population rom) 0#7) := by
  obtain ⟨hold, -, hmax⟩ :=
    discAfter_spec (rom := rom) (i := 0) (d := 0#7) (pairs := wiredPairs population rom) (by simp) le_rfl
  simp only [Nat.zero_add] at hold hmax
  constructor
  · intro hne
    obtain ⟨k, hk, hcoll, hone⟩ := hold.resolve_left hne
    obtain ⟨hlt, hpair⟩ := getElem?_wiredPairs_eq_some.1 hcoll
    obtain ⟨b, hb, hzero⟩ := wiredAnd_eq_false.1 (congrArg Prod.fst hpair)
    obtain ⟨hmem, hshare⟩ := mem_sharing.1 hb
    rw [hk, Nat.add_sub_cancel]
    exact ⟨b, hmem, hlt, fun j hj => (hshare j hj).symm, hone, hzero⟩
  · rintro b hb i ⟨hi, hshare, hone, hzero⟩
    refine hmax i (getElem?_wiredPairs_eq_some.2 ⟨hi, Prod.ext ?_ ?_⟩) hone
    · exact wiredAnd_eq_false.2 ⟨b, mem_sharing.2 ⟨hb, fun j hj => (hshare j hj).symm⟩, hzero⟩
    · exact wiredAndComplement_eq_false.2 ⟨rom, mem_sharing.2 ⟨hrom, fun _ _ => rfl⟩, hone⟩

/-! ### Which device a pass finds -/

section Next

variable {population : List Rom} {last : Disc} {lastRom rom : Rom}
  (hbranch : BranchesTaken last lastRom rom 0 (wiredPairs population rom)) (hrom : rom ∈ population)
include hbranch hrom

/-- A device that shares the bits found so far but not the next one makes a collision there, and the branch rule of collisions
decides (R209). -/
theorem branch_of_device {x : Rom} {i : Nat} (hx : x ∈ population) (hi : i < 64)
    (hshare : ∀ j < i, x.getLsbD j = rom.getLsbD j) (hdiff : x.getLsbD i ≠ rom.getLsbD i) :
    (i + 1 < last.toNat ∧ rom.getLsbD i = lastRom.getLsbD i) ∨ (i + 1 = last.toNat ∧ rom.getLsbD i = false) ∨
      (last.toNat < i + 1 ∧ rom.getLsbD i = true) := by
  have hx : x ∈ sharing population rom i := mem_sharing.2 ⟨hx, hshare⟩
  have hr : rom ∈ sharing population rom i := mem_sharing.2 ⟨hrom, fun _ _ => rfl⟩
  have hcoll : wiredPair (sharing population rom i) i = (false, false) := by
    refine Prod.ext (wiredAnd_eq_false.2 ?_) (wiredAndComplement_eq_false.2 ?_) <;> cases hbit : rom.getLsbD i
    · exact ⟨rom, hr, hbit⟩
    · exact ⟨x, hx, by simpa [hbit] using hdiff⟩
    · exact ⟨x, hx, by simpa [hbit] using hdiff⟩
    · exact ⟨rom, hr, hbit⟩
  have htaken := hbranch.branchTaken (getElem?_wiredPairs hi)
  rw [hcoll, Nat.zero_add] at htaken
  simpa [BranchTaken] using htaken

/-- Beyond LAST_DISC a pass takes every 1-branch: a device with the same bits up to there is found later (R209, R219). -/
theorem eq_or_foundBefore_of_share {x : Rom} (hx : x ∈ population)
    (hshare : ∀ j < last.toNat, x.getLsbD j = rom.getLsbD j) : x = rom ∨ foundBefore rom x := by
  obtain heq | ⟨i, h | h⟩ := eq_or_branchesOff x rom
  · exact .inl heq
  · obtain ⟨hi, hbelow, hone, hzero⟩ := h
    have hge : last.toNat ≤ i := by
      by_contra hlt
      simpa [hone, hzero] using hshare i (by omega)
    have hdec := branch_of_device hbranch hrom hx hi hbelow (by simp [hone, hzero])
    simp only [hzero, Bool.false_eq_true, and_false, or_false] at hdec
    omega
  · exact .inr h.foundBefore

/-- With a branch left, the next pass follows the last address up to it and takes the 0 there (R209, R219). -/
theorem branchesOff_next (hlast : lastRom ∈ population) (hmark : LastBranch population lastRom last) (hne : last ≠ 0#7) :
    BranchesOff (last.toNat - 1) lastRom rom := by
  have hpos : last.toNat ≠ 0 := fun h0 => hne (BitVec.eq_of_toNat_eq h0)
  obtain ⟨b, hb, hi, hbshare, hbone, hbzero⟩ := hmark.branch hne
  have hshare : ∀ j < last.toNat - 1, lastRom.getLsbD j = rom.getLsbD j := by
    intro j
    induction j using Nat.strong_induction_on with
    | _ j ih =>
      intro hj
      by_contra hdiff
      have hdec := branch_of_device hbranch hrom hlast (by omega) (fun k hk => ih k hk (by omega)) hdiff
      obtain ⟨-, heq⟩ | ⟨hat, -⟩ | ⟨hbeyond, -⟩ := hdec
      · exact hdiff heq.symm
      · omega
      · omega
  refine ⟨hi, hshare, hbone, ?_⟩
  by_contra hone
  have hdec := branch_of_device hbranch hrom hb hi (fun j hj => (hbshare j hj).symm.trans (hshare j hj))
    (by simpa [hbzero] using hone)
  obtain ⟨hbelow, -⟩ | ⟨-, hzero⟩ | ⟨hbeyond, -⟩ := hdec
  · omega
  · exact hone hzero
  · omega

end Next

/-! ### The devices still to be found -/

/-- The devices found after `a`. -/
def foundAfter (population : List Rom) (a : Rom) : List Rom :=
  population.filter fun x => decide (x.reverse < a.reverse)

theorem mem_foundAfter {population : List Rom} {a x : Rom} :
    x ∈ foundAfter population a ↔ x ∈ population ∧ foundBefore a x := by
  simp [foundAfter, foundBefore]

/-- The devices still to be found from a search state: all in a new traversal, else those after the last address. -/
def unvisited (population : List Rom) (s : State) : List Rom :=
  if s.lastDisc = 0#7 then population else foundAfter population s.lastRom

/-- The search state is that of a traversal of these devices: LAST_ROM is one of them, with its last branch (R215). -/
def Traverses (population : List Rom) (s : State) : Prop :=
  s.lastDisc ≠ 0#7 → s.lastRom ∈ population ∧ LastBranch population s.lastRom s.lastDisc

/-- A pass finds the first of the devices still to be found: the others are those after it. -/
theorem mem_unvisited_iff {population : List Rom} {s : State} {rom x : Rom} (ht : Traverses population s)
    (hbranch : BranchesTaken s.lastDisc s.lastRom rom 0 (wiredPairs population rom)) (hrom : rom ∈ population) :
    x ∈ unvisited population s ↔ x = rom ∨ x ∈ foundAfter population rom := by
  have hgreedy {x : Rom} (hx : x ∈ population) (hshare : ∀ j < s.lastDisc.toNat, x.getLsbD j = rom.getLsbD j) :
      x = rom ∨ x ∈ foundAfter population rom :=
    (eq_or_foundBefore_of_share hbranch hrom hx hshare).imp_right fun h => mem_foundAfter.2 ⟨hx, h⟩
  unfold unvisited
  split
  next hzero =>
    refine ⟨fun hx => hgreedy hx (by simp [hzero]), ?_⟩
    rintro (rfl | hx)
    · exact hrom
    · exact (mem_foundAfter.1 hx).1
  next hne =>
    obtain ⟨hlast, hmark⟩ := ht hne
    have hnext := branchesOff_next hbranch hrom hlast hmark hne
    constructor
    · intro hx
      obtain ⟨hx, hafter⟩ := mem_foundAfter.1 hx
      obtain ⟨i, hi, hshare, hone, hzero⟩ := foundBefore_iff.1 hafter
      have hle := hmark.last x hx i ⟨hi, hshare, hone, hzero⟩
      obtain ⟨-, hshare', -, hzero'⟩ := hnext
      obtain hlt | heq : i < s.lastDisc.toNat - 1 ∨ i = s.lastDisc.toNat - 1 := by omega
      · have hoff : BranchesOff i rom x :=
          ⟨hi, fun j hj => (hshare' j (by omega)).symm.trans (hshare j hj), (hshare' i hlt).symm.trans hone, hzero⟩
        exact .inr (mem_foundAfter.2 ⟨hx, hoff.foundBefore⟩)
      · refine hgreedy hx fun j hj => ?_
        obtain hj | rfl : j < i ∨ j = i := by omega
        · exact (hshare j hj).symm.trans (hshare' j (by omega))
        · rw [hzero, heq, hzero']
    · rintro (rfl | hx)
      · exact mem_foundAfter.2 ⟨hrom, hnext.foundBefore⟩
      · obtain ⟨hx, hafter⟩ := mem_foundAfter.1 hx
        exact mem_foundAfter.2 ⟨hx, foundBefore_trans hnext.foundBefore hafter⟩

theorem unvisited_perm {population : List Rom} {s : State} {rom : Rom} (hnodup : population.Nodup)
    (ht : Traverses population s) (hbranch : BranchesTaken s.lastDisc s.lastRom rom 0 (wiredPairs population rom))
    (hrom : rom ∈ population) : (unvisited population s).Perm (rom :: foundAfter population rom) := by
  have hun : (unvisited population s).Nodup := by
    unfold unvisited
    split
    · exact hnodup
    · exact hnodup.filter _
  have hself : rom ∉ foundAfter population rom := fun h => foundBefore_irrefl rom (mem_foundAfter.1 h).2
  refine (List.perm_ext_iff_of_nodup hun (List.nodup_cons.2 ⟨hself, hnodup.filter _⟩)).2 fun x => ?_
  rw [mem_unvisited_iff ht hbranch hrom, List.mem_cons]

/-! ### One pass of a scan, and all of them -/

/-- `t` is the state after a pass of a traversal that found `rom`: the devices found after it are still to be found. -/
structure PassFinds (population : List Rom) (s : State) (rom : Rom) (t : State) : Prop where
  /-- the pass completes with this address -/
  pass : runPass s = ⟨romStatus rom, rom, t⟩
  /-- the other devices come later -/
  rest : (unvisited population s).Perm (rom :: foundAfter population rom)
  /-- it is a device -/
  mem : rom ∈ population
  /-- LAST_DISC is its last branch -/
  mark : LastBranch population rom t.lastDisc
  /-- LAST_ROM, LRV, DONE and PF (R215, R204) -/
  registers : t.lastRom = rom ∧ t.lrv = true ∧ t.done = doneFlag t.lastDisc ∧ t.pf = false
  /-- the devices stay on the bus -/
  bus : ∃ phase, t.bus = .devices population phase
  /-- one reset, 128 reads, 72 writes (R360) -/
  slots : ∃ new, t.busLog = s.busLog ++ new ∧ slotCounts new = (1, 128, 72)

theorem exists_passFinds {population : List Rom} {s : State} {phase : DevicePhase}
    (hs : s.bus = .devices population phase) (hne : population ≠ []) (hnodup : population.Nodup)
    (ht : Traverses population s) : ∃ (rom : Rom) (t : State), PassFinds population s rom t := by
  obtain ⟨rom, u, hrom, hbranch, hpass, hrun⟩ := pass_on_devices hs hne
  refine ⟨rom, _, hpass, unvisited_perm hnodup ht hbranch hrom, hrom, lastBranch_discAfter hrom,
    ⟨rfl, rfl, rfl, hrun.pf⟩, ?_, _, hrun.busLog.trans (List.append_assoc _ _ _), ?_⟩
  · rw [completePass_bus, hrun.bus, hs]
    exact busAfter_devices population phase _
  · simp [slotCounts_append]

/-- The CRC-valid addresses of a list (R226). -/
def validOf (found : List Rom) : List Rom := found.filter fun a => crc8 (romBytes a) = 0x00#8

/-- The CRC-invalid ones. -/
def rejectedOf (found : List Rom) : List Rom := found.filter fun a => crc8 (romBytes a) ≠ 0x00#8

theorem validOf_cons (rom : Rom) (found : List Rom) : validOf (rom :: found) = validOf [rom] ++ validOf found :=
  List.filter_append [rom] found

theorem rejectedOf_cons (rom : Rom) (found : List Rom) : rejectedOf (rom :: found) = rejectedOf [rom] ++ rejectedOf found :=
  List.filter_append [rom] found

/-- A scan, with what it had listed before, ended having found `found` in order. -/
structure ScanFinds (found valid rejected : List Rom) (s : State) (r : ScanResult) : Prop where
  /-- each found after the one before it -/
  sorted : found.Pairwise foundBefore
  /-- the traversal ended -/
  status : r.status = .ok
  /-- CRC-valid addresses -/
  valid : r.valid = valid ++ validOf found
  /-- CRC-invalid addresses -/
  rejected : r.rejected = rejected ++ rejectedOf found
  /-- the registers at the end of the traversal -/
  registers : r.state.lastDisc = 0#7 ∧ r.state.done = true ∧ r.state.lrv = true ∧ r.state.pf = false
  /-- LAST_ROM is the last address found -/
  lastRom : found.getLast? = some r.state.lastRom
  /-- a completed pass for each address (R360) -/
  slots : ∃ new, r.state.busLog = s.busLog ++ new ∧
    slotCounts new = (found.length, 128 * found.length, 72 * found.length)

/-- A completed pass lists its address by its verdict. -/
theorem romsOf_completed {row : PassRow} (h : row.status = romStatus row.rom) :
    romsOf .ok [row] = validOf [row.rom] ∧
      romsOf .checksumMismatch [row] = rejectedOf [row.rom] := by
  rw [romStatus_eq] at h
  by_cases hcrc : crc8 (romBytes row.rom) = 0x00#8 <;> simp [romsOf, validOf, rejectedOf, h, hcrc]

theorem PassFinds.scanLoop_succ {population : List Rom} {s t : State} {rom : Rom} (h : PassFinds population s rom t) (n : Nat)
    (valid rejected : List Rom) : scanLoop (n + 1) valid rejected s =
      if t.lastDisc = 0#7 then ⟨.ok, valid ++ validOf [rom],
        rejected ++ rejectedOf [rom], t⟩
      else scanLoop n (valid ++ validOf [rom])
        (rejected ++ rejectedOf [rom]) t := by
  have hrow : passRow s = ⟨romStatus rom, rom, t.lastDisc⟩ := by rw [passRow, h.pass]
  obtain ⟨hok, hbad⟩ := romsOf_completed (row := ⟨romStatus rom, rom, t.lastDisc⟩) rfl
  rw [Machine.scanLoop_succ, hrow, hok, hbad, h.pass]
  by_cases hd : t.lastDisc = 0#7 <;> obtain ⟨-, hs⟩ | ⟨-, hs⟩ := romStatus_cases rom <;>
    simp [PassRow.goesOn, scanStatus, hd, hs]

theorem foundAfter_eq_nil {population : List Rom} {rom : Rom} (h : LastBranch population rom 0#7) :
    foundAfter population rom = [] := by
  refine List.eq_nil_iff_forall_not_mem.2 fun x hx => ?_
  obtain ⟨hx, hafter⟩ := mem_foundAfter.1 hx
  obtain ⟨i, hi⟩ := foundBefore_iff.1 hafter
  exact absurd (h.last x hx i hi) (by simp)

/-- The traversal goes on from where a pass left a branch, with the devices found after it. -/
theorem PassFinds.traverses {population : List Rom} {s t : State} {rom : Rom} (h : PassFinds population s rom t)
    (hd : t.lastDisc ≠ 0#7) : Traverses population t ∧ unvisited population t = foundAfter population rom := by
  obtain ⟨hlast, -⟩ := h.registers
  rw [Traverses, unvisited, if_neg hd, hlast]
  exact ⟨fun _ => ⟨h.mem, h.mark⟩, rfl⟩

/-- The last pass of a scan finds the last device. -/
theorem PassFinds.scanFinds_last {population : List Rom} {s t : State} {rom : Rom} (h : PassFinds population s rom t)
    (hd : t.lastDisc = 0#7) (n : Nat) (valid rejected : List Rom) :
    ScanFinds [rom] valid rejected s (scanLoop (n + 1) valid rejected s) := by
  obtain ⟨hlast, hlrv, hdone, hpf⟩ := h.registers
  rw [h.scanLoop_succ, if_pos hd]
  exact ⟨List.pairwise_singleton _ _, rfl, rfl, rfl, ⟨hd, by rw [hdone, hd]; rfl, hlrv, hpf⟩,
    congrArg some hlast.symm, h.slots⟩

/-- A pass ahead of the rest of a scan. -/
theorem PassFinds.scanFinds_cons {population : List Rom} {s t : State} {rom : Rom} {found valid rejected : List Rom} {n : Nat}
    (h : PassFinds population s rom t) (hd : t.lastDisc ≠ 0#7) (hfound : ∀ x ∈ found, foundBefore rom x)
    (hscan : ScanFinds found (valid ++ validOf [rom])
      (rejected ++ rejectedOf [rom]) t
      (scanLoop n (valid ++ validOf [rom])
        (rejected ++ rejectedOf [rom]) t)) :
    ScanFinds (rom :: found) valid rejected s (scanLoop (n + 1) valid rejected s) := by
  rw [h.scanLoop_succ, if_neg hd]
  obtain ⟨new, hlog, hcount⟩ := h.slots
  obtain ⟨more, hmore, hmoreCount⟩ := hscan.slots
  refine ⟨List.pairwise_cons.2 ⟨hfound, hscan.sorted⟩, hscan.status, ?_, ?_, hscan.registers, ?_, new ++ more, ?_, ?_⟩
  · rw [hscan.valid, List.append_assoc, ← validOf_cons]
  · rw [hscan.rejected, List.append_assoc, ← rejectedOf_cons]
  · rw [List.getLast?_cons, hscan.lastRom]
    rfl
  · rw [hmore, hlog, List.append_assoc]
  · rw [slotCounts_append, hcount, hmoreCount, List.length_cons]
    simp
    omega

/-- With passes enough, a scan finds all devices still to be found. -/
theorem scanLoop_finds {population : List Rom} (hne : population ≠ []) (hnodup : population.Nodup) (n : Nat)
    (valid rejected : List Rom) (s : State) {phase : DevicePhase} (hs : s.bus = .devices population phase)
    (ht : Traverses population s) (hn : (unvisited population s).length ≤ n) :
    ∃ found : List Rom, found.Perm (unvisited population s) ∧
      ScanFinds found valid rejected s (scanLoop n valid rejected s) := by
  induction n generalizing valid rejected s phase with
  | zero =>
    obtain ⟨rom, t, h⟩ := exists_passFinds hs hne hnodup ht
    have hlen := h.rest.length_eq
    rw [List.length_cons] at hlen
    omega
  | succ n ih =>
    obtain ⟨rom, t, h⟩ := exists_passFinds hs hne hnodup ht
    by_cases hd : t.lastDisc = 0#7
    · have hrest := h.rest
      rw [foundAfter_eq_nil (hd ▸ h.mark)] at hrest
      exact ⟨[rom], hrest.symm, h.scanFinds_last hd n valid rejected⟩
    · obtain ⟨htrav, hun⟩ := h.traverses hd
      obtain ⟨phase', hbus⟩ := h.bus
      have hlen := h.rest.length_eq
      rw [List.length_cons, ← hun] at hlen
      obtain ⟨found, hperm, hscan⟩ := ih _ _ t hbus htrav (by omega)
      rw [hun] at hperm
      exact ⟨rom :: found, (hperm.cons rom).trans h.rest.symm,
        h.scanFinds_cons hd (fun x hx => (mem_foundAfter.1 (hperm.mem_iff.1 hx)).2) hscan⟩

/-- Settles O57: from a fresh SearchState all devices are still to be found. -/
theorem scanEnumeratesPopulation : Obligations.ScanEnumeratesPopulation := by
  intro s population phase hs hne hnodup hmax
  have hfresh : unvisited population (clearSearch s) = population := if_pos rfl
  obtain ⟨found, hperm, hscan⟩ := scanLoop_finds hne hnodup s.maxPasses.val [] [] (clearSearch s) (phase := phase) hs
    (fun h => absurd rfl h) (by rwa [hfresh])
  rw [hfresh] at hperm
  change ScanFinds found [] [] (clearSearch s) (scanBus s) at hscan
  obtain ⟨hdisc, hdone, hlrv, hpf⟩ := hscan.registers
  obtain ⟨new, hlog, hcount⟩ := hscan.slots
  refine ⟨_, found, new, exec_scan s, hperm, hscan.sorted, ?_, hdisc, hdone, hlrv, hpf, hscan.lastRom, hlog,
    hperm.length_eq ▸ hcount⟩
  rw [respond_hostOut, (scanBus_sameOutsideSearch s).hostOut, hscan.status, hscan.valid, hscan.rejected, List.nil_append,
    List.nil_append]
  rfl

end Sys2Proof.Machine

/-! ## A stream of well-formed commands never faults (60_exceptions.md R310, R313) -/

namespace Sys2Proof.Machine

/-- A running core that has received no byte steps to the same state. -/
theorem step_of_idle {s : State} (hr : s.Running) (hdec : s.decoder = []) (hin : s.hostIn = []) : step s = .next s := by
  have hmissing : decode (s.decoder ++ []) = .incomplete := by
    rw [hdec]
    rfl
  rw [step_of_missing_bytes (bs := []) hr hin hmissing, List.append_nil, ← hin]

/-- Settles O11, by induction on the steps: each runs the first command and leaves a running core with the rest of the
stream, or waits once the stream has run out. -/
theorem wellFormedStreamIsSafe : Obligations.WellFormedStreamIsSafe := by
  intro is s hwf hr hdec hin k
  induction k generalizing is s with
  | zero => trivial
  | succ k ih =>
    cases is with
    | nil => exact ⟨s, step_of_idle hr hdec hin, ih [] s hwf hr hdec hin⟩
    | cons i is =>
      obtain ⟨hi, his⟩ := List.forall_mem_cons.1 hwf
      obtain ⟨t, hstep, -, hrt, hdt, hint⟩ := step_of_stream (more := []) hi hr hdec (by rw [hin, List.append_nil])
      exact ⟨t, hstep, ih is t his hrt hdt (by rw [hint, List.append_nil])⟩

end Sys2Proof.Machine

/-! ## The reset, and the transactions each command performs (70_reset_and_hazards.md R340, R341, R360) -/

namespace Sys2Proof.Machine

/-! ### The reset (R340, R341) -/

/-- Settles O15: the core waits with all bytes before the reset taken in, so the reset is the next arrival. -/
theorem hardwareResetAbortsCommand : Obligations.HardwareResetAbortsCommand := by
  intro s bs more hr hin hd
  have hbefore : bytesBeforeReset s.hostIn = bs := by simp [hin, bytesBeforeReset]
  have hfrom : fromReset s.hostIn = portBytes [] ++ .hwReset :: more := by simp [hin, fromReset]
  rw [step_of_waiting hr (fetch_of_incomplete (hbefore.symm ▸ hd)), takeReset_of_pending hfrom, Option.getD_some,
    hardwareReset_eq, portBytes_nil, List.nil_append]

/-- Settles O16: the fields of `State.reset`, and STATUS computed from three of them. -/
theorem resetRegisterValues : Obligations.ResetRegisterValues :=
  ⟨rfl, rfl, rfl, romBytes_zero, rfl, rfl, rfl, rfl, rfl, by decide⟩

/-- Settles O19: the state after reset is the one a hardware reset leaves it in. -/
theorem resetMeetsInvariant : Obligations.ResetMeetsInvariant := by
  have hreset : hardwareReset State.reset = State.reset := hardwareReset_eq State.reset
  rw [Obligations.ResetMeetsInvariant, ← hreset]
  exact hardwareReset_inv State.reset

/-! ### The transactions of a pass -/

theorem slotCounts_completedPass (rom : Rom) {pairs : List (Bool × Bool)} (hlen : pairs.length = 64) :
    slotCounts (searchOpening ++ searchSlots rom 0 pairs) = (1, 128, 72) := by
  simp [slotCounts_append, hlen]

/-- An abort after `pairs.length` bit indices has made two reads more than these (R213). -/
theorem slotCounts_abortedPass (rom : Rom) (pairs : List (Bool × Bool)) :
    slotCounts (searchOpening ++ searchSlots rom 0 pairs ++ [.read true, .read true]) =
      (1, 2 * (pairs.length + 1), 8 + pairs.length) := by
  simp [slotCounts_append, slotCounts, Nat.mul_add]

/-- The transactions of a pass, by its status (R212, R213, R215, R360). -/
theorem pass_transactions (s : State) : ∃ new, (runPass s).state.busLog = s.busLog ++ new ∧
    (((runPass s).status = .busFault ∧ new = [.reset true]) ∨
      ((runPass s).status = .searchAbort ∧ ∃ (rom : Rom) (pairs : List (Bool × Bool)), pairs.length < 64 ∧
        new = searchOpening ++ searchSlots rom 0 pairs ++ [.read true, .read true]) ∨
      (((runPass s).status = .ok ∨ (runPass s).status = .checksumMismatch) ∧ slotCounts new = (1, 128, 72))) := by
  cases hp : (bcReset s).1 with
  | true =>
    rw [runPass_of_noPresence hp]
    exact ⟨[.reset true], by rw [failPass_busLog, passReset_busLog, hp], .inl ⟨rfl, rfl⟩⟩
  | false =>
    obtain ⟨pairs, rom, u, -, ⟨hlen, hpass, hrun⟩ | ⟨hlen, hpass, hrun⟩⟩ := pass_cases_of_presence hp <;> rw [hpass]
    · exact ⟨_, by rw [failPass_busLog, hrun.busLog, List.append_assoc],
        .inr (.inl ⟨rfl, rom, pairs, hlen, (List.append_assoc _ _ _).symm⟩)⟩
    · exact ⟨_, by rw [completePass_busLog, hrun.busLog, List.append_assoc],
        .inr (.inr ⟨(romStatus_cases rom).imp And.right And.right, slotCounts_completedPass rom hlen⟩)⟩

/-! ### The transactions of a scan -/

/-- Passes after which the scan goes on are completed ones (R225). -/
theorem afterPasses_transactions {k : Nat} {s : State} (h : ∀ r ∈ passRows k s, r.goesOn) :
    ∃ new, (afterPasses k s).busLog = s.busLog ++ new ∧ slotCounts new = (k, 128 * k, 72 * k) := by
  induction k generalizing s with
  | zero => exact ⟨[], (List.append_nil _).symm, rfl⟩
  | succ k ih =>
    obtain ⟨⟨hstatus, -⟩, hrows⟩ := List.forall_mem_cons.1 h
    obtain ⟨first, hfirst, ⟨hfail, -⟩ | ⟨hfail, -⟩ | ⟨-, hcounts⟩⟩ := pass_transactions s
    · simp [passRow, hfail] at hstatus
    · simp [passRow, hfail] at hstatus
    · obtain ⟨new, hnew, hrest⟩ := ih hrows
      refine ⟨first ++ new, by rw [afterPasses, hnew, hfirst, List.append_assoc], ?_⟩
      rw [slotCounts_append, hcounts, hrest]
      simp only [Prod.mk.injEq]
      omega

/-- How many addresses a scan with these rows lists, valid and rejected (R226). -/
def listedCount (rows : List PassRow) : Nat := (romsOf .ok rows).length + (romsOf .checksumMismatch rows).length

theorem listedCount_append (xs ys : List PassRow) : listedCount (xs ++ ys) = listedCount xs + listedCount ys := by
  simp only [listedCount, romsOf, List.filter_append, List.map_append, List.length_append]
  omega

theorem listedCount_completed {row : PassRow} (h : row.status = .ok ∨ row.status = .checksumMismatch) :
    listedCount [row] = 1 := by
  obtain h | h := h <;> simp [listedCount, romsOf, h]

theorem listedCount_failed {row : PassRow} (h : row.status = .busFault ∨ row.status = .searchAbort) :
    listedCount [row] = 0 := by
  obtain h | h := h <;> simp [listedCount, romsOf, h]

/-- The passes before the last one each list an address. -/
theorem listedCount_passRows_succ {k : Nat} {s : State} (h : ∀ r ∈ passRows k s, r.goesOn) :
    listedCount (passRows (k + 1) s) = k + listedCount [passRow (afterPasses k s)] := by
  rw [passRows_succ_last, listedCount_append, listedCount, romsOf_length_of_goesOn h, passRows_length]

/-- A failed pass ends the scan with its own status (R225). -/
theorem scanStatus_of_failed {row : PassRow} (h : row.status = .busFault ∨ row.status = .searchAbort) :
    scanStatus row = row.status := by
  obtain h | h := h <;> simp [scanStatus, PassRow.goesOn, h]

/-- A completed pass ends the scan with OK if it left no branch to visit (R225). -/
theorem scanStatus_of_completed {row : PassRow} (h : row.status = .ok ∨ row.status = .checksumMismatch) (hd : row.disc = 0#7) :
    scanStatus row = .ok := by
  obtain h | h := h <;> simp [scanStatus, PassRow.goesOn, h, hd]

/-- The transactions of a scan, by its status: `m` completed passes, and those of the pass that failed (R225, R226, R360). -/
theorem scan_transactions (s : State) : ∃ (m : Nat) (new : List Transaction),
    m = (scanBus s).valid.length + (scanBus s).rejected.length ∧ (scanBus s).state.busLog = s.busLog ++ new ∧
    (((scanBus s).status = .ok ∧ 1 ≤ m ∧ m ≤ s.maxPasses.val ∧ slotCounts new = (m, 128 * m, 72 * m)) ∨
      ((scanBus s).status = .passLimit ∧ m = s.maxPasses.val ∧ slotCounts new = (m, 128 * m, 72 * m)) ∨
      ((scanBus s).status = .busFault ∧ m < s.maxPasses.val ∧ slotCounts new = (m + 1, 128 * m, 72 * m)) ∨
      ((scanBus s).status = .searchAbort ∧ m < s.maxPasses.val ∧
        ∃ k < 64, slotCounts new = (m + 1, 128 * m + 2 * (k + 1), 72 * m + 8 + k))) := by
  obtain ⟨k, hk, hscan, hrows, hlimit⟩ := scanBus_eq_passes s
  obtain ⟨before, hbefore, hbeforeCounts⟩ := afterPasses_transactions hrows
  obtain ⟨last, hlast, hend⟩ := pass_transactions (afterPasses k (clearSearch s))
  have hlisted := listedCount_passRows_succ hrows
  have hcounts := slotCounts_append before last
  rw [hbeforeCounts] at hcounts
  rw [hscan, afterPasses_succ_last]
  refine ⟨_, before ++ last, hlisted.symm, by rw [hlast, hbefore, clearSearch_busLog, List.append_assoc], ?_⟩
  rw [hcounts]
  obtain ⟨hstatus, rfl⟩ | ⟨hstatus, rom, pairs, hpairs, rfl⟩ | ⟨hstatus, hlastCounts⟩ := hend
  · rw [scanStatus_of_failed (.inl hstatus), listedCount_failed (.inl hstatus)]
    exact .inr (.inr (.inl ⟨hstatus, hk, rfl⟩))
  · rw [scanStatus_of_failed (.inr hstatus), listedCount_failed (.inr hstatus), slotCounts_abortedPass]
    exact .inr (.inr (.inr ⟨hstatus, hk, pairs.length, hpairs, by simp [Nat.add_assoc]⟩))
  · rw [listedCount_completed hstatus, hlastCounts]
    by_cases hdisc : (runPass (afterPasses k (clearSearch s))).state.lastDisc = 0#7
    · exact .inl ⟨scanStatus_of_completed hstatus hdisc, Nat.succ_pos k, hk, rfl⟩
    · exact .inr (.inl ⟨scanStatus_of_goesOn ⟨hstatus, hdisc⟩, hlimit ⟨hstatus, hdisc⟩, rfl⟩)

/-! ### The transactions of the other commands -/

/-- The bits of a block, eight for each byte (R120). -/
theorem flatMap_byteBits_length (d : List Byte) : (d.flatMap byteBits).length = 8 * d.length := by
  simp [List.length_flatMap, Nat.mul_comm]

/-- The growth of the history fixes the transactions of a run. -/
theorem BusRun.new_eq {s t : State} {xs new : List Transaction} (h : BusRun s xs t) (hlog : t.busLog = s.busLog ++ new) :
    new = xs :=
  List.append_cancel_left (hlog.symm.trans h.log)

/-- Settles O22: a case for each kind of traffic; the two search commands by how their passes end. -/
theorem transactionCounts : Obligations.TransactionCounts := by
  intro i s t new hi h hlog
  cases i with
  | busReset => cases h; rw [(bcReset_busRun s).new_eq hlog]; rfl
  | bitRead => cases h; rw [(bcReadBit_busRun s).new_eq hlog]; rfl
  | bitWrite b =>
    obtain ⟨-, rfl⟩ | ⟨hb, -⟩ := execBitWrite_cases h
    · rw [(bcWriteBit_busRun _ s).new_eq hlog]; rfl
    · exact absurd (by simpa [Instr.reservedZero] using hi.2) hb
  | byteRead => cases h; rw [(readByteBits_busRun s).new_eq hlog]; exact slotCounts_reads _
  | byteWrite v => cases h; rw [(writeByteBits_busRun v s).new_eq hlog]; exact slotCounts_writes _
  | blockRead n =>
    cases h
    rw [(readBlockBits_busRun n s).new_eq hlog]
    simp only [slotCounts_reads, flatMap_byteBits_length, readBlockBits_length]
  | blockWrite d =>
    cases h
    rw [(writeBlockBits_busRun d s).new_eq hlog]
    simp only [slotCounts_writes, flatMap_byteBits_length]
  | searchPass =>
    cases h
    refine ⟨passRow s, congrArg (· ++ _) (runPass_sameOutsideSearch s).hostOut, ?_⟩
    obtain ⟨new', hnew, hend⟩ := pass_transactions s
    obtain rfl : new' = new := List.append_cancel_left (hnew.symm.trans hlog)
    simp only [passRow]
    obtain ⟨hstatus, rfl⟩ | ⟨hstatus, rom, pairs, hpairs, rfl⟩ | ⟨hstatus | hstatus, hcounts⟩ := hend <;> rw [hstatus]
    · exact ⟨rfl, rfl⟩
    · exact ⟨pairs.length, rom, pairs, hpairs, rfl, rfl, slotCounts_abortedPass rom pairs⟩
    · exact hcounts
    · exact hcounts
  | scan =>
    cases h
    obtain ⟨m, new', hm, hnew, hend⟩ := scan_transactions s
    obtain rfl : new' = new := List.append_cancel_left (hnew.symm.trans hlog)
    refine ⟨_, _, _, m, congrArg (· ++ _) (scanBus_sameOutsideSearch s).hostOut, hm, ?_⟩
    obtain ⟨hstatus, hend⟩ | ⟨hstatus, hend⟩ | ⟨hstatus, hend⟩ | ⟨hstatus, hend⟩ := hend <;> rw [hstatus] <;> exact hend
  | crc8Clear | crc8Update v | crc8Block d | crc8Read | addrComplete a | addrCheck a =>
    cases h; exact List.self_eq_append_right.1 hlog
  | crc16Seed w | crc16Update v | crc16Block d | crc16Read | crc16Append | crc16Check =>
    cases h; exact List.self_eq_append_right.1 hlog
  | searchInit | searchRead | statusRead => cases h; exact List.self_eq_append_right.1 hlog

end Sys2Proof.Machine
